-- ==== Sys2Proof/Word.lean ====
section
/-!
DEFINITION. The words of NPX and the Color triple (spec/00_scope.md R11, R13; spec/10_state.md R23).
All values are unsigned and bit 0 is the least significant bit of every value (R11). The wrapping primitives of R13
(`+8`, `-8`, `*8`, `+32`, `-32`) are `+`, `-`, `*` on bit vectors of that width; plain `+`, `<`, `≥` of the spec are
over the naturals and are written with `toNat`.
-/
namespace Sys2Proof

/-- An 8-bit unsigned value: a channel, a phase, a scale. -/
abbrev Byte := BitVec 8

/-- A 24-bit pixel word; the first bit to go on the wire is bit 23 (R63). -/
abbrev Word24 := BitVec 24

/-- A 32-bit counter. -/
abbrev Word32 := BitVec 32

/-- A Color: a triple of 8-bit unsigned intensities, red first whatever `CHORDER` is (R14, R23). -/
structure Color where
  r : Byte
  g : Byte
  b : Byte
deriving DecidableEq, Repr, Inhabited

end Sys2Proof
end

