-- ==== Sys2Proof/Config.lean ====
section
/-!
DEFINITION. The configuration record `Config` (spec/00_scope.md R7), fixed for the whole run: every field the spec
calls OPEN is data a claim may quantify over. `HSV2RGB` is the one field that is a function; it is an opaque
constant, so that nothing can be proved of its values (R114, spec/93_implementation_defined.md U1).
-/
namespace Sys2Proof

/-- `STRATEGY` (R3): the Timer-Paced or the State-Machine serializer, selected at build time. -/
inductive Strategy where
  | timer
  | sm
deriving DecidableEq, Repr

/-- `POLICY` (R110): which function the Color Sequencer applies. -/
inductive Policy where
  | wheel
  | hsv
deriving DecidableEq, Repr

/-- `CHORDER` (R86): the order of the channels on the wire, one of the six permutations. -/
inductive ChOrder where
  | rgb
  | rbg
  | grb
  | gbr
  | brg
  | bgr
deriving DecidableEq, Repr

/-- `F_TICK` (R7: hertz, real) as plain data: a rational frequency, or one of the frequencies `Hertz.free` names, which
may be any real number (log entry 20). -/
inductive Hertz where
  /-- a rational number of hertz -/
  | rational (q : Rat)
  /-- the real number of hertz `Hertz.free n` -/
  | real (n : Nat)
deriving DecidableEq, Repr

/-- Real frequencies of which nothing is known: a free value (log entry 20). -/
opaque Hertz.free : Nat → ℝ

/-- The frequency as a real number. -/
noncomputable def Hertz.toReal : Hertz → ℝ
  | .rational q => q
  | .real n => Hertz.free n

/-- The parameters of R7. Durations are whole numbers of ticks; `fTick` is `F_TICK` and no operation reads it.
`HSV2RGB` is `Config.hsv2rgb` below. -/
structure Config where
  /-- `STRATEGY` -/
  strategy : Strategy
  /-- `POLICY` -/
  policy : Policy
  /-- `NPIX`, colours per frame -/
  npix : Nat
  /-- `SCALE`, the Brightness Scale -/
  scale : Byte
  /-- `CHORDER` -/
  chorder : ChOrder
  /-- `T0H`, high ticks of a 0 bit -/
  t0h : Nat
  /-- `T1H`, high ticks of a 1 bit -/
  t1h : Nat
  /-- `TOTAL`, ticks of a bit -/
  total : Nat
  /-- `TRESET`, least latch ticks -/
  treset : Nat
  /-- `FRAME_TICKS`, ticks of the inter-frame wait -/
  frameTicks : Nat
  /-- `QDEPTH`, capacity of the TX queue -/
  qdepth : Nat
  /-- `BLOCK_BOUND`, consecutive blocked ticks a transmit survives -/
  blockBound : Nat
  /-- `PHASE_INIT`, the phase after reset -/
  phaseInit : Byte
  /-- `HSV_SAT` -/
  hsvSat : Byte
  /-- `HSV_VAL` -/
  hsvVal : Byte
  /-- `F_TICK`, hertz -/
  fTick : Hertz
deriving DecidableEq, Repr

/-- `HSV2RGB` (R114): the "standard HSV-to-RGB conversion" the source names and does not define. A free value: a total
function of hue, saturation and value of which nothing is known (log entry 8). -/
opaque Config.hsv2rgb : Byte → Byte → Byte → Color

/-- The reference configuration `CFG_A` (R9). `QDEPTH` and `BLOCK_BOUND` are "not used" there and take `CFG_B`'s
values; `HSV_SAT` and `HSV_VAL` are R7's reference values (log entry 2). -/
def Config.cfgA : Config where
  strategy := .timer
  policy := .wheel
  npix := 1
  scale := 32
  chorder := .grb
  t0h := 1
  t1h := 2
  total := 3
  treset := 150
  frameTicks := 75000
  qdepth := 4
  blockBound := 240
  phaseInit := 128
  hsvSat := 255
  hsvVal := 16
  fTick := .rational 3000000

/-- The reference configuration `CFG_B` (R9). -/
def Config.cfgB : Config where
  strategy := .sm
  policy := .wheel
  npix := 1
  scale := 32
  chorder := .grb
  t0h := 2
  t1h := 7
  total := 10
  treset := 400
  frameTicks := 200000
  qdepth := 4
  blockBound := 240
  phaseInit := 128
  hsvSat := 255
  hsvVal := 16
  fTick := .rational 8000000

/-- How long `k` ticks last, in seconds (R10, R243). -/
noncomputable def Config.seconds (cfg : Config) (k : Nat) : ℝ := k / cfg.fTick.toReal

end Sys2Proof
end

