-- ==== Sys2Proof/Syntax.lean ====
section
/-!
DEFINITION. The operations of NPX: one constructor per row of spec/opcode_table.json (spec/30_encoding.md R99, R101).
An operand is written only where the operation is given one from outside the registers: a pixel word, a channel and a
scale, a sequence of Colors and a scale. The operations of the other rows read their operands from named registers.
-/
namespace Sys2Proof

/-- One operation. -/
inductive Instr where
  /-- `INITCHK`, R181 -/
  | initchk
  /-- `RDPHASE`, R182 -/
  | rdphase
  /-- `SEQ`, R183 -/
  | seq
  /-- `TX`, R184 -/
  | tx
  /-- `ADVANCE`, R185 -/
  | advance
  /-- `WAITFRAME`, R186 -/
  | waitframe
  /-- `HALT`, R187 -/
  | halt
  /-- `WHEEL`, R112; its phase is `PHL` (R110) -/
  | wheel
  /-- `HSV`, R114; its phase is `PHL` (R110) -/
  | hsv
  /-- `T_START`, R138 -/
  | tStart
  /-- `T_HIGH`, R139 -/
  | tHigh
  /-- `T_LOW`, R140 -/
  | tLow
  /-- `T_LATCH`, R141 -/
  | tLatch
  /-- `S_START`, R144 -/
  | sStart
  /-- `S_PUSH`, R145 -/
  | sPush
  /-- `S_DRAIN`, R146 -/
  | sDrain
  /-- `S_LATCH`, R147 -/
  | sLatch
  /-- `E_IDLE`, R148 -/
  | eIdle
  /-- `E_HIGH`, R149 -/
  | eHigh
  /-- `E_LOW`, R150 -/
  | eLow
  /-- `BIT0`, R132 -/
  | bit0
  /-- `BIT1`, R133 -/
  | bit1
  /-- `LATCH`, R134 -/
  | latch
  /-- `PIXEL`, R135, of a 24-bit word -/
  | pixel (w : Word24)
  /-- `SCALE`, R115, of a channel `c` and a Brightness Scale `s` -/
  | scale (c : Byte) (s : Byte)
  /-- `TRANSMIT`, R130, of an ordered list of Colors and a Brightness Scale -/
  | transmit (colors : List Color) (s : Byte)
deriving DecidableEq, Repr

/-- The formats of the operation table (R101). -/
inductive Format where
  | cst
  | policy
  | txsTimer
  | txsSm
  | est
  | symbol
  | word
  | func
deriving DecidableEq, Repr

/-- The table's "format" column. -/
def Instr.format : Instr → Format
  | .initchk | .rdphase | .seq | .tx | .advance | .waitframe | .halt => .cst
  | .wheel | .hsv => .policy
  | .tStart | .tHigh | .tLow | .tLatch => .txsTimer
  | .sStart | .sPush | .sDrain | .sLatch => .txsSm
  | .eIdle | .eHigh | .eLow => .est
  | .bit0 | .bit1 | .latch => .symbol
  | .pixel _ => .word
  | .scale _ _ | .transmit _ _ => .func

end Sys2Proof
end

