-- ==== Sys2Proof/WellFormed.lean ====
section
/-!
DEFINITION. The well-formedness checks: of a configuration (spec/00_scope.md R8) and of an operation's operands
(spec/41_bit_serializer.md R130: `N ≥ 1` Colors; spec/00_scope.md R7: at most 12 pixels).
-/
namespace Sys2Proof

/-- The bit timing constraints of R8: `1 ≤ T0H < T1H < TOTAL < 2^32`. -/
def Config.wfBit (cfg : Config) : Bool :=
  decide (1 ≤ cfg.t0h ∧ cfg.t0h < cfg.t1h ∧ cfg.t1h < cfg.total ∧ cfg.total < 2 ^ 32)

/-- The latch and frame constraints of R8: `1 ≤ TRESET < 2^32` and `1 ≤ FRAME_TICKS < 2^32`. -/
def Config.wfInterval (cfg : Config) : Bool :=
  decide (1 ≤ cfg.treset ∧ cfg.treset < 2 ^ 32 ∧ 1 ≤ cfg.frameTicks ∧ cfg.frameTicks < 2 ^ 32)

/-- The pixel count of R8: `1 ≤ NPIX ≤ 12`. -/
def Config.wfPixels (cfg : Config) : Bool := decide (1 ≤ cfg.npix ∧ cfg.npix ≤ 12)

/-- The queue constraints of R8, which hold of `STRATEGY = SM` only: `QDEPTH ≥ 1` and `BLOCK_BOUND < 2^32`. -/
def Config.wfQueue (cfg : Config) : Bool :=
  match cfg.strategy with
  | .timer => true
  | .sm => decide (1 ≤ cfg.qdepth ∧ cfg.blockBound < 2 ^ 32)

/-- A well-formed `Config` (R8). `SCALE ≤ 255` and `CHORDER` one of six hold by the fields' types. -/
def Config.wf (cfg : Config) : Bool := cfg.wfBit && cfg.wfInterval && cfg.wfPixels && cfg.wfQueue

/-- A well-formed operation: `TRANSMIT` takes 1 to 12 Colors (R130, R7); every other operation has no ill-formed
operand. -/
def Instr.wf : Instr → Bool
  | .transmit colors _ => decide (1 ≤ colors.length ∧ colors.length ≤ 12)
  | .initchk | .rdphase | .seq | .tx | .advance | .waitframe | .halt
  | .wheel | .hsv
  | .tStart | .tHigh | .tLow | .tLatch
  | .sStart | .sPush | .sDrain | .sLatch
  | .eIdle | .eHigh | .eLow
  | .bit0 | .bit1 | .latch
  | .pixel _ | .scale _ _ => true

end Sys2Proof
end

