-- ==== Sys2Proof/Decode.lean ====
section
/-!
DEFINITION. The encodings of spec/30_encoding.md: state and cause codes (R89 to R93), parameter codes (R94), waveforms
(R81, R82), pixel words (R83); the decoder, total on every encoded operation and rejecting by name, and the encoder.
NPX fetches no instructions (R1): what selects an operation is a code held in a register or a parameter, a waveform,
a word, or a name (R101). An encoded operation therefore carries its format beside its bits (log entry 14).
-/
namespace Sys2Proof

/-! ### Codes of the block's own state (R89 to R93) -/

/-- `CST` code of `INIT` (R89). -/
@[simp] abbrev cstInit : BitVec 3 := 0b000#3
/-- `CST` code of `READ` (R89). -/
@[simp] abbrev cstRead : BitVec 3 := 0b001#3
/-- `CST` code of `SEQ` (R89). -/
@[simp] abbrev cstSeq : BitVec 3 := 0b010#3
/-- `CST` code of `TX` (R89). -/
@[simp] abbrev cstTx : BitVec 3 := 0b011#3
/-- `CST` code of `ADV` (R89). -/
@[simp] abbrev cstAdv : BitVec 3 := 0b100#3
/-- `CST` code of `WAIT` (R89). -/
@[simp] abbrev cstWait : BitVec 3 := 0b101#3
/-- The reserved `CST` code (R89, R95). -/
@[simp] abbrev cstReserved : BitVec 3 := 0b110#3
/-- `CST` code of `HALT` (R89). -/
@[simp] abbrev cstHalt : BitVec 3 := 0b111#3

/-- `TXS` code of both start values (R25, R90, R91). -/
@[simp] abbrev txsStart : BitVec 2 := 0b00#2
/-- `TXS` code of `T_HIGH` (R90). -/
@[simp] abbrev txsTHigh : BitVec 2 := 0b01#2
/-- `TXS` code of `T_LOW` (R90). -/
@[simp] abbrev txsTLow : BitVec 2 := 0b10#2
/-- `TXS` code of `T_LATCH` (R90). -/
@[simp] abbrev txsTLatch : BitVec 2 := 0b11#2
/-- `TXS` code of `S_PUSH` (R91). -/
@[simp] abbrev txsSPush : BitVec 2 := 0b01#2
/-- `TXS` code of `S_DRAIN` (R91). -/
@[simp] abbrev txsSDrain : BitVec 2 := 0b10#2
/-- `TXS` code of `S_LATCH` (R91). -/
@[simp] abbrev txsSLatch : BitVec 2 := 0b11#2

/-- `EST` code of `E_IDLE` (R92). -/
@[simp] abbrev estIdle : BitVec 2 := 0b00#2
/-- `EST` code of `E_HIGH` (R92). -/
@[simp] abbrev estHigh : BitVec 2 := 0b01#2
/-- `EST` code of `E_LOW` (R92). -/
@[simp] abbrev estLow : BitVec 2 := 0b10#2
/-- The reserved `EST` code (R92, R95). -/
@[simp] abbrev estReserved : BitVec 2 := 0b11#2

/-- `HALT_CAUSE` code `NONE` (R93). -/
@[simp] abbrev causeNone : BitVec 2 := 0b00#2
/-- `HALT_CAUSE` code `INIT_FAIL` (R93). -/
@[simp] abbrev causeInitFail : BitVec 2 := 0b01#2
/-- `HALT_CAUSE` code `TX_FAIL` (R93). -/
@[simp] abbrev causeTxFail : BitVec 2 := 0b10#2
/-- The reserved `HALT_CAUSE` code (R93, R95). -/
@[simp] abbrev causeReserved : BitVec 2 := 0b11#2

/-! ### Codes of the enumerated parameters (R94) -/

/-- The code of `STRATEGY` (R94). -/
def Strategy.code : Strategy → BitVec 1
  | .timer => 0
  | .sm => 1

/-- The `STRATEGY` a code stands for (R94). -/
def Strategy.ofCode (c : BitVec 1) : Strategy := if c = 0 then .timer else .sm

/-- The code of `POLICY` (R94). -/
def Policy.code : Policy → BitVec 1
  | .wheel => 0
  | .hsv => 1

/-- The `POLICY` a code stands for (R94). -/
def Policy.ofCode (c : BitVec 1) : Policy := if c = 0 then .wheel else .hsv

/-- The code of `CHORDER` (R94). -/
def ChOrder.code : ChOrder → BitVec 3
  | .rgb => 0
  | .rbg => 1
  | .grb => 2
  | .gbr => 3
  | .brg => 4
  | .bgr => 5

/-- The `CHORDER` a code stands for; codes 6 and 7 are reserved (R94, R95). -/
def ChOrder.ofCode (c : BitVec 3) : Option ChOrder :=
  match c.toNat with
  | 0 => some .rgb
  | 1 => some .rbg
  | 2 => some .grb
  | 3 => some .gbr
  | 4 => some .brg
  | 5 => some .bgr
  | _ => none

/-! ### Waveforms (R81, R82, R84), one level per tick, earliest first -/

/-- How many ticks a bit symbol is high (R81): `T1H` for a 1 bit, `T0H` for a 0 bit. -/
def Config.hiTicks (cfg : Config) (b : Bool) : Nat := if b then cfg.t1h else cfg.t0h

/-- The waveform of `BIT(b)` (R81): high for its high time, then low to the end of `TOTAL`. -/
def Config.bitWave (cfg : Config) (b : Bool) : List Bool :=
  List.replicate (cfg.hiTicks b) true ++ List.replicate (cfg.total - cfg.hiTicks b) false

/-- The least waveform of `LATCH` (R82): low for `TRESET` ticks. -/
def Config.latchWave (cfg : Config) : List Bool := List.replicate cfg.treset false

/-- The first `n` bits of a word to go on the wire: bit 23 first (R63, R135). -/
def wordBits : Nat → Word24 → List Bool
  | 0, _ => []
  | n + 1, w => w.getLsbD 23 :: wordBits n (w <<< 1)

/-- The waveform of `PIXEL(w)` (R135): the 24 bit symbols of the word, bit 23 first, without a gap. -/
def Config.pixelWave (cfg : Config) (w : Word24) : List Bool :=
  (wordBits 24 w).flatMap cfg.bitWave

/-- The waveform of a frame's words (R84): their pixels in order, without a gap, then the least latch. -/
def Config.frameWave (cfg : Config) (ws : List Word24) : List Bool :=
  ws.flatMap cfg.pixelWave ++ cfg.latchWave

/-! ### Encoded operations -/

/-- The functions selected by name (format `FUNC`, R101). -/
inductive FuncName where
  | scale
  | transmit
deriving DecidableEq, Repr

/-- An encoded operation: the format that says where the code stands (R101), and the code. -/
inductive Code where
  /-- the 3-bit register `CST` -/
  | cst (c : BitVec 3)
  /-- the parameter `POLICY` -/
  | policy (c : BitVec 1)
  /-- the 2-bit register `TXS`, `STRATEGY = TIMER` -/
  | txsTimer (c : BitVec 2)
  /-- the 2-bit register `TXS`, `STRATEGY = SM` -/
  | txsSm (c : BitVec 2)
  /-- the 2-bit register `EST` -/
  | est (c : BitVec 2)
  /-- a run of levels on the wire, earliest first -/
  | symbol (ticks : List Bool)
  /-- a pixel word -/
  | word (w : Word24)
  /-- a function selected by name, with its operand bytes (log entry 14) -/
  | func (f : FuncName) (operands : List Byte)
deriving DecidableEq, Repr

/-- The format an encoded operation carries. -/
def Code.format : Code → Format
  | .cst _ => .cst
  | .policy _ => .policy
  | .txsTimer _ => .txsTimer
  | .txsSm _ => .txsSm
  | .est _ => .est
  | .symbol _ => .symbol
  | .word _ => .word
  | .func _ _ => .func

/-- Why an encoded operation is rejected. -/
inductive DecodeError where
  /-- `CST = 110` (R95) -/
  | reservedCst
  /-- `EST = 11` (R95) -/
  | reservedEst
  /-- a run of levels that is no symbol of R81, R82 -/
  | notASymbol
  /-- operand bytes a function does not take -/
  | badOperands
deriving DecidableEq, Repr

/-- The operation of a `CST` code (R89). -/
def decodeCst (c : BitVec 3) : Except DecodeError Instr :=
  if c = cstInit then .ok .initchk
  else if c = cstRead then .ok .rdphase
  else if c = cstSeq then .ok .seq
  else if c = cstTx then .ok .tx
  else if c = cstAdv then .ok .advance
  else if c = cstWait then .ok .waitframe
  else if c = cstHalt then .ok .halt
  else .error .reservedCst

/-- The sequencer function of a `POLICY` code (R94, R101). -/
def decodePolicy (c : BitVec 1) : Instr :=
  match Policy.ofCode c with
  | .wheel => .wheel
  | .hsv => .hsv

/-- The operation of a `TXS` code when `STRATEGY = TIMER` (R90). -/
def decodeTxsTimer (c : BitVec 2) : Instr :=
  if c = txsStart then .tStart
  else if c = txsTHigh then .tHigh
  else if c = txsTLow then .tLow
  else .tLatch

/-- The operation of a `TXS` code when `STRATEGY = SM` (R91). -/
def decodeTxsSm (c : BitVec 2) : Instr :=
  if c = txsStart then .sStart
  else if c = txsSPush then .sPush
  else if c = txsSDrain then .sDrain
  else .sLatch

/-- The operation of an `EST` code (R92). -/
def decodeEst (c : BitVec 2) : Except DecodeError Instr :=
  if c = estIdle then .ok .eIdle
  else if c = estHigh then .ok .eHigh
  else if c = estLow then .ok .eLow
  else .error .reservedEst

/-- The symbol a run of levels is (R81, R82): exactly one bit's waveform, or any low run of at least `TRESET` ticks
(R98). -/
def decodeSymbol (cfg : Config) (ticks : List Bool) : Except DecodeError Instr :=
  if ticks = cfg.bitWave false then .ok .bit0
  else if ticks = cfg.bitWave true then .ok .bit1
  else if ticks.all (! ·) ∧ cfg.treset ≤ ticks.length then .ok .latch
  else .error .notASymbol

/-- Colors from bytes, red first (R14). -/
def colorsOfBytes : List Byte → Option (List Color)
  | [] => some []
  | r :: g :: b :: rest => (colorsOfBytes rest).map (⟨r, g, b⟩ :: ·)
  | _ => none

/-- The bytes of Colors, red first (R14). -/
def bytesOfColors : List Color → List Byte
  | [] => []
  | c :: cs => c.r :: c.g :: c.b :: bytesOfColors cs

/-- A function selected by name with its operand bytes: `SCALE` takes a channel and a scale; `TRANSMIT` takes a scale
and then 1 to 12 Colors (R99, R130). -/
def decodeFunc (f : FuncName) (operands : List Byte) : Except DecodeError Instr :=
  match f, operands with
  | .scale, [c, s] => .ok (.scale c s)
  | .scale, _ => .error .badOperands
  | .transmit, [] => .error .badOperands
  | .transmit, s :: rest =>
    match colorsOfBytes rest with
    | none => .error .badOperands
    | some colors =>
      if (Instr.transmit colors s).wf then .ok (.transmit colors s) else .error .badOperands

/-- The decoder, total on every encoded operation. -/
def decode (cfg : Config) : Code → Except DecodeError Instr
  | .cst c => decodeCst c
  | .policy c => .ok (decodePolicy c)
  | .txsTimer c => .ok (decodeTxsTimer c)
  | .txsSm c => .ok (decodeTxsSm c)
  | .est c => decodeEst c
  | .symbol ticks => decodeSymbol cfg ticks
  | .word w => .ok (.pixel w)
  | .func f operands => decodeFunc f operands

/-- The encoder. -/
def encode (cfg : Config) : Instr → Code
  | .initchk => .cst cstInit
  | .rdphase => .cst cstRead
  | .seq => .cst cstSeq
  | .tx => .cst cstTx
  | .advance => .cst cstAdv
  | .waitframe => .cst cstWait
  | .halt => .cst cstHalt
  | .wheel => .policy Policy.wheel.code
  | .hsv => .policy Policy.hsv.code
  | .tStart => .txsTimer txsStart
  | .tHigh => .txsTimer txsTHigh
  | .tLow => .txsTimer txsTLow
  | .tLatch => .txsTimer txsTLatch
  | .sStart => .txsSm txsStart
  | .sPush => .txsSm txsSPush
  | .sDrain => .txsSm txsSDrain
  | .sLatch => .txsSm txsSLatch
  | .eIdle => .est estIdle
  | .eHigh => .est estHigh
  | .eLow => .est estLow
  | .bit0 => .symbol (cfg.bitWave false)
  | .bit1 => .symbol (cfg.bitWave true)
  | .latch => .symbol cfg.latchWave
  | .pixel w => .word w
  | .scale c s => .func .scale [c, s]
  | .transmit colors s => .func .transmit (s :: bytesOfColors colors)

/-! ### The table's own numbering -/

/-- The encoded operation of a table word. The table's rows of different formats have the same numbers, because a
register or a parameter tells the formats apart (R101): a word of one byte is read as a `CST` code, the selector of
the controller's operation, but for 110, which is no `CST` code and is `BIT1`'s pattern; three bytes, or four (the
table's "width" field counted as bit 24), are a pixel word; 150 or more zero bits are `LATCH`'s pattern. The "width"
field the reader puts above a `CST` code is ignored (log entry 14). -/
def tableCode (nbits w : Nat) : Option Code :=
  if 1 ≤ nbits ∧ nbits ≤ 8 then
    if w = 6 then some (.symbol [true, true, false])
    else if w < 16 then some (.cst (BitVec.ofNat 3 w))
    else none
  else if 24 ≤ nbits ∧ nbits ≤ 32 then
    if w < 2 ^ 25 then some (.word (BitVec.ofNat 24 w)) else none
  else if 150 ≤ nbits ∧ w = 0 then some (.symbol (List.replicate 150 false))
  else none

/-- The operation the decoder reads from a table word; the table's waveform patterns are `CFG_A`'s (R101). -/
def decodeTableWord (nbits w : Nat) : Option Instr :=
  match tableCode nbits w with
  | none => none
  | some code =>
    match decode Config.cfgA code with
    | .ok i => some i
    | .error _ => none

end Sys2Proof
end

