-- ==== Sys2Proof/Machine/State.lean ====
section
/-!
DEFINITION. The state of NPX as plain data: every register of spec/10_state.md under its own name (R20), the
parameters of the run that the step reads (the configuration and the input samples), and two observation fields of
the model's own. Reset is spec/10_state.md R44.
-/
namespace Sys2Proof.Machine

/-- The input ports sampled in one tick (R40); `clk` is the step itself. -/
structure Pins where
  /-- `rst` -/
  rst : Bool
  /-- `init_ok` -/
  initOk : Bool
  /-- `chan_avail` -/
  chanAvail : Bool
deriving DecidableEq, Repr

/-- What the last operation that returns a value returned (R110, R115, R130). No operation reads it (log entry 7). -/
inductive OpResult where
  /-- nothing has been returned -/
  | none
  /-- the Color of `WHEEL` or `HSV` -/
  | color (c : Color)
  /-- the channel of `SCALE` -/
  | channel (c : Byte)
  /-- `TRANSMIT` returned success -/
  | success
  /-- `TRANSMIT` returned failure -/
  | failure
deriving DecidableEq, Repr

/-- The machine. The first group is the spec's registers; `cfg`, `pins` and `script` are the run's parameters
(log entries 1 and 5); `wire` and `ret` are the model's observation fields (log entries 6 and 7). -/
structure State where
  /-- `Config`, never written -/
  cfg : Config
  /-- `PHASE`, the Animation Phase (R21) -/
  phase : Byte
  /-- `PHL`, the phase latched by step 1 (R22) -/
  phl : Byte
  /-- `COL`, this frame's unscaled Color (R23) -/
  col : Color
  /-- `CST`, the position in the loop (R24, R89) -/
  cst : BitVec 3
  /-- `TXS`, the sub-state inside `TX` (R25, R90, R91) -/
  txs : BitVec 2
  /-- `PIX`, the pixel being sent or pushed (R26) -/
  pix : BitVec 4
  /-- `FTMR`, the inter-frame count-down (R27) -/
  ftmr : Word32
  /-- `SHR`, the Timer-Paced shift register (R28) -/
  shr : Word24
  /-- `BITCNT`, bits of `SHR` not yet finished (R28) -/
  bitcnt : BitVec 5
  /-- `TSTART`, `TCNT` in the first tick of the timed interval (R29) -/
  tstart : Word32
  /-- `TCNT`, the free-running counter (R30) -/
  tcnt : Word32
  /-- `LCNT`, ticks spent in the latch (R31) -/
  lcnt : Word32
  /-- `BLK`, consecutive blocked ticks (R32) -/
  blk : Word32
  /-- `DOUT`, the serial line (R33) -/
  dout : Bool
  /-- `CRIT`, preemption inhibit (R34) -/
  crit : Bool
  /-- `HALT_CAUSE` (R35, R93) -/
  haltCause : BitVec 2
  /-- `FIFO`, the TX queue, head first (R36) -/
  fifo : List Word24
  /-- `EST`, the bit engine's state (R37, R92) -/
  est : BitVec 2
  /-- `ESHR`, the word the engine is sending (R37) -/
  eshr : Word24
  /-- `EBIT`, bits of `ESHR` not yet finished (R37) -/
  ebit : BitVec 5
  /-- `ESYMT`, index of the tick within the engine's bit symbol (R37) -/
  esymt : Word32
  /-- the input ports in this tick -/
  pins : Pins
  /-- the input samples of the ticks to come; after the last one the ports hold their values (log entry 5) -/
  script : List Pins
  /-- the levels of `dout` in the ticks gone by, earliest first (R14) -/
  wire : List Bool
  /-- the last returned value -/
  ret : OpResult
deriving DecidableEq, Repr

/-- The faults: the reserved codes, from which "a step … should be a fault, never a guess" (R95). Raised by `step` and by
the operations that run ticks of their own (`BIT0`, `BIT1`, `LATCH`, `PIXEL`, `TRANSMIT`); safe: the hardware never is in
such a state. -/
inductive Fault where
  /-- `CST = 110`; raised by the fetch of the controller's operation and by those operations; safe -/
  | reservedCst
  /-- `HALT_CAUSE = 11`; raised by the fetch, by those operations and by a frame of the frame-level semantics; safe -/
  | reservedHaltCause
  /-- `EST = 11` when `STRATEGY = SM`; raised by the fetch of the engine's operation and by those operations; safe -/
  | reservedEst
deriving DecidableEq, Repr

/-- The refusals. -/
inductive Refusal where
  /-- an operation the model gives no meaning; raised by an arm of `exec` only; safe -/
  | notModelled (mnemonic : String)
  /-- a `Config` that is not well-formed has no meaning (R8, R96); raised by `step` and by every
  operation; safe -/
  | illFormedConfig
  /-- `TRANSMIT` of no Color or of more than 12 (R130, R7); raised by `TRANSMIT`; safe -/
  | illFormedOperands
deriving DecidableEq, Repr

/-- The state after reset under a configuration (R44), with the counter at `tcnt` and the ports at `pins`. The
registers R44 leaves unspecified are 0 (log entry 3). -/
def State.resetWith (cfg : Config) (tcnt : Word32) (pins : Pins) : State where
  cfg := cfg
  phase := cfg.phaseInit
  phl := 0
  col := ⟨0, 0, 0⟩
  cst := cstInit
  txs := txsStart
  pix := 0
  ftmr := 0
  shr := 0
  bitcnt := 0
  tstart := 0
  tcnt := tcnt
  lcnt := 0
  blk := 0
  dout := false
  crit := false
  haltCause := causeNone
  fifo := []
  est := estIdle
  eshr := 0
  ebit := 0
  esymt := 0
  pins := pins
  script := []
  wire := []
  ret := .none

/-- The machine right after reset (R44, R232 tick 0): the reset state of `CFG_A` with `rst = 0`, `init_ok = 1`,
`chan_avail = 1` and `TCNT = 0` (log entries 2, 4, 5). -/
def State.reset : State :=
  State.resetWith Config.cfgA 0 { rst := false, initOk := true, chanAvail := true }

end Sys2Proof.Machine
end

