-- ==== Sys2Proof/Machine/Flags.lean ====
section
/-!
DEFINITION. NPX has no condition codes (spec/10_state.md R42). Its status bits are `DOUT` (R33), `CRIT` (R34) and
`HALT_CAUSE` (R35), the derived `halted`, and the output ports that show them (R41).
-/
namespace Sys2Proof.Machine

/-- `halted` (R41): 1 when `CST = HALT`. -/
def State.halted (s : State) : Bool := s.cst == cstHalt

/-- The line driven to a level (R33). -/
def State.driveLine (s : State) (level : Bool) : State := { s with dout := level }

/-- The preemption inhibit set or cleared (R34, R143). -/
def State.setCrit (s : State) (b : Bool) : State := { s with crit := b }

/-- The output ports of R41. -/
structure Ports where
  dout : Bool
  crit : Bool
  halted : Bool
  haltCause : BitVec 2
  cst : BitVec 3
  phase : Byte
deriving DecidableEq, Repr

/-- The output ports in a tick, each a function of the state alone (R10, R41). -/
def State.ports (s : State) : Ports where
  dout := s.dout
  crit := s.crit
  halted := s.halted
  haltCause := s.haltCause
  cst := s.cst
  phase := s.phase

end Sys2Proof.Machine
end

