-- ==== Sys2Proof/Machine/Operands.lean ====
section
/-!
DEFINITION. Operands of the serializer and the sequencer: brightness scaling (spec/40_color_sequencer.md R115), the two
colour functions (R112, R114), word assembly (spec/30_encoding.md R86, R87), elapsed time
(spec/41_bit_serializer.md R142), and the words a transmit takes (R117, R130).
-/
namespace Sys2Proof.Machine

/-- `scale8` (R115): the exact product divided by 255, rounded toward zero. -/
def scale8 (c s : Byte) : Byte := BitVec.ofNat 8 (c.toNat * s.toNat / 255)

/-- `WHEEL` (R112), in wrapping 8-bit arithmetic. -/
def wheel (φ : Byte) : Color :=
  let pos := 255#8 - φ
  if pos.toNat < 85 then
    { r := 255#8 - pos * 3#8, g := 0, b := pos * 3#8 }
  else if pos.toNat < 170 then
    let p := pos - 85#8
    { r := 0, g := p * 3#8, b := 255#8 - p * 3#8 }
  else
    let p := pos - 170#8
    { r := p * 3#8, g := 255#8 - p * 3#8, b := 0 }

/-- `HSV` (R114): the open conversion at the fixed saturation and value. -/
def hsv (cfg : Config) (φ : Byte) : Color := Config.hsv2rgb φ cfg.hsvSat cfg.hsvVal

/-- The Color Sequencer's output for a phase (R110): the function `POLICY` selects. -/
def sequencer (cfg : Config) (φ : Byte) : Color :=
  match cfg.policy with
  | .wheel => wheel φ
  | .hsv => hsv cfg φ

/-- `pack_CHORDER` (R86): the three channels, the first of `CHORDER` in bits 23:16. -/
def pack (o : ChOrder) (r g b : Byte) : Word24 :=
  match o with
  | .rgb => r ++ g ++ b
  | .rbg => r ++ b ++ g
  | .grb => g ++ r ++ b
  | .gbr => g ++ b ++ r
  | .brg => b ++ r ++ g
  | .bgr => b ++ g ++ r

/-- `word(c, s)` (R87): the scaled channels of a Color, packed. -/
def wordOf (o : ChOrder) (c : Color) (s : Byte) : Word24 :=
  pack o (scale8 c.r s) (scale8 c.g s) (scale8 c.b s)

/-- `el` (R142): the 0-based index of this tick in the timed interval, `TCNT -32 TSTART`. -/
def State.elapsed (s : State) : Word32 := s.tcnt - s.tstart

/-- `hi` of the Timer-Paced strategy (R139): the high time of the bit `SHR[23]`. -/
def State.hiTimer (s : State) : Nat := s.cfg.hiTicks (s.shr.getLsbD 23)

/-- `hi` of the bit engine (R149): the high time of the bit `ESHR[23]`. -/
def State.hiEngine (s : State) : Nat := s.cfg.hiTicks (s.eshr.getLsbD 23)

/-- The sequence a transmit sends: how many words, and the word of each index. -/
structure Feed where
  /-- `N` of R130 -/
  n : Nat
  /-- `word(seq[i], s)` -/
  wordAt : Nat → Word24

/-- The sequence of a frame (R117): `NPIX` copies of `COL` under `SCALE`. -/
def State.frameFeed (s : State) : Feed where
  n := s.cfg.npix
  wordAt _ := wordOf s.cfg.chorder s.col s.cfg.scale

/-- The sequence of a call `TRANSMIT(seq, s)` (R130). -/
def seqFeed (o : ChOrder) (colors : List Color) (s : Byte) : Feed where
  n := colors.length
  wordAt i := wordOf o (colors.getD i default) s

end Sys2Proof.Machine
end

