-- ==== Sys2Proof/Machine/Ops.lean ====
section
/-!
DEFINITION. The named operations over the registers, the TX queue, the wire and the input ports that the meanings
share; halt entry (spec/60_exceptions.md R208) and the only way back, reset (spec/70_reset_and_hazards.md R230); and
how the agents' parts of one tick make the next state (spec/00_scope.md R12, R15; spec/20_memory.md R74).
-/
namespace Sys2Proof.Machine

/-! ### Configurations with a meaning -/

/-- An operation under an ill-formed `Config` has no meaning and is refused (R8, R96; log entry 16). -/
def State.underWf (s : State) (o : Host.Outcome State Fault Refusal) : Host.Outcome State Fault Refusal :=
  if s.cfg.wf then o else .refused .illFormedConfig

/-! ### Reserved codes (R95; log entry 13) -/

/-- The fault of a reserved code the state holds, if it holds one; `EST` counts in `SM` only (R92). -/
def State.reservedCode (s : State) : Option Fault :=
  if s.haltCause = causeReserved then some .reservedHaltCause
  else if s.cst = cstReserved then some .reservedCst
  else if s.cfg.strategy = .sm ∧ s.est = estReserved then some .reservedEst
  else none

/-- Ticks from a state with a reserved code are a fault, "never a guess". -/
def State.underCodes (s : State) (o : Host.Outcome State Fault Refusal) : Host.Outcome State Fault Refusal :=
  match s.reservedCode with
  | some x => .fault x
  | none => o

/-! ### Input ports -/

/-- The sample of the input ports `k` ticks after the one that shows `p`, given the samples to come; past the last
one the ports hold (log entry 5). -/
def pinsAt : Pins → List Pins → Nat → Pins
  | p, _, 0 => p
  | p, [], _ + 1 => p
  | _, q :: qs, k + 1 => pinsAt q qs k

/-- The input ports `k` ticks from now. -/
def State.pinsAt (s : State) (k : Nat) : Pins := Machine.pinsAt s.pins s.script k

/-! ### Controller registers -/

/-- `CST <- c`, the block's `pc <- target` (R12). -/
def State.goTo (s : State) (c : BitVec 3) : State := { s with cst := c }

/-- `raise Halt(cause)` (R208): the cause is recorded, the controller goes to `HALT`, and every other register keeps
its value. -/
def State.raiseHalt (s : State) (cause : BitVec 2) : State :=
  { s with haltCause := cause, cst := cstHalt }

/-- A Timer-Paced bit symbol begins in the next tick (R138, R140): the line goes high and the interval's start is
recorded. -/
def State.startSymbol (s : State) : State :=
  { s with dout := true, tstart := s.tcnt + 1, txs := txsTHigh }

/-- A word is loaded into the Timer-Paced shift register (R138, R140). -/
def State.loadShr (s : State) (w : Word24) : State := { s with shr := w, bitcnt := 24 }

/-- The transmit has succeeded (R141, R147): `TXS` back to its start value, `CST <- ADV`. -/
def State.transmitDone (s : State) : State := { s with txs := txsStart, cst := cstAdv }

/-- The controller was blocked in this tick (R145, R146): past the bound the transmit fails, else the blocked ticks
are counted. -/
def State.blocked (s : State) : State :=
  if s.cfg.blockBound ≤ s.blk.toNat then s.raiseHalt causeTxFail else { s with blk := s.blk + 1 }

/-! ### The TX queue (R75) and the bit engine's registers -/

/-- `QPush` (R12): the word goes to the queue's tail. -/
def State.qPush (s : State) (w : Word24) : State := { s with fifo := s.fifo ++ [w] }

/-- An engine bit symbol begins in the next tick (R148, R150). -/
def State.engineStart (s : State) : State := { s with esymt := 0, dout := true, est := estHigh }

/-- The engine's load (R148, R150): `QPop` takes the head `w`, leaving `rest`, and the word's first symbol begins. -/
def State.engineLoad (s : State) (w : Word24) (rest : List Word24) : State :=
  ({ s with fifo := rest, eshr := w, ebit := 24 } : State).engineStart

/-! ### One tick -/

/-- The two agents' parts of a tick joined (R12, R74): `c` is what the controller made of `s`, `e` what the bit engine
made of `s`. The engine owns `DOUT`, `EST`, `ESHR`, `EBIT`, `ESYMT`; the queue loses its head if the engine popped and
then gains the controller's word if it pushed; the controller owns the rest. -/
def State.joint (s c e : State) : State :=
  { c with
    dout := e.dout
    est := e.est
    eshr := e.eshr
    ebit := e.ebit
    esymt := e.esymt
    fifo := e.fifo ++ c.fifo.drop s.fifo.length }

/-- `k` ticks go by at the ports and the counter: `TCNT` counts (R30) and the input ports show their next samples. -/
def State.passTicks (s : State) (k : Nat) : State :=
  { s with
    tcnt := s.tcnt + BitVec.ofNat 32 k
    pins := s.pinsAt k
    script := s.script.drop k }

/-- The end of the tick whose state was `s`: the agents' joint result `t`, the counter and the input ports one tick
on, and the level the line had in this tick added to the wire (R14, R30). -/
def State.endTick (s t : State) : State :=
  { t with
    tcnt := s.tcnt + 1
    pins := s.pinsAt 1
    script := s.script.drop 1
    wire := s.wire ++ [s.dout] }

/-- A tick with `rst = 1` (R230): the reset state, whatever the state was; `TCNT` alone keeps counting. The
configuration and the environment's side (ports, wire, returned value) are not reset. -/
def State.resetTick (s : State) : State :=
  { State.resetWith s.cfg (s.tcnt + 1) (s.pinsAt 1) with
    script := s.script.drop 1
    wire := s.wire ++ [s.dout]
    ret := s.ret }

/-- A waveform is put on the wire (R132 to R135): its ticks go by and the line keeps its last level. The waveform's
first level is what the wire shows in the first of those ticks, whatever `DOUT` held: the model's choice
(log entry 21). -/
def State.emit (s : State) (wave : List Bool) : State :=
  { s.passTicks wave.length with
    wire := s.wire ++ wave
    dout := wave.getLastD s.dout }

end Sys2Proof.Machine
end

