-- ==== Sys2Proof/Machine/Sequencer.lean ====
section
/-!
DEFINITION. The Color Sequencer's operations `WHEEL`, `HSV` and `SCALE` (spec/40_color_sequencer.md). They are pure: they
write no register of the block (R110); their value is what they return (log entry 7). `SEQ` and word assembly apply
the same functions (spec/42_animation_loop.md R183, spec/30_encoding.md R87).
-/
namespace Sys2Proof.Machine

/-- A pure operation returns a value and writes nothing else. -/
def State.returns (s : State) (v : OpResult) : State := { s with ret := v }

/-- `WHEEL` (R112) of the latched phase `PHL` (R110). -/
def execWheel (s : State) : Host.Outcome State Fault Refusal := s.underWf (.next (s.returns (.color (wheel s.phl))))

/-- `HSV` (R114) of the latched phase `PHL` (R110). -/
def execHsv (s : State) : Host.Outcome State Fault Refusal := s.underWf (.next (s.returns (.color (hsv s.cfg s.phl))))

/-- `SCALE` (R115). -/
def execScale (c sc : Byte) (s : State) : Host.Outcome State Fault Refusal :=
  s.underWf (.next (s.returns (.channel (scale8 c sc))))

end Sys2Proof.Machine
end

