-- ==== Sys2Proof/Machine/StateMachine.lean ====
section
/-!
DEFINITION. The State-Machine strategy at tick level (spec/41_bit_serializer.md section 4): the controller's `S_START`,
`S_PUSH`, `S_DRAIN`, `S_LATCH`, and the bit engine's `E_IDLE`, `E_HIGH`, `E_LOW` under its enable (R151). Each is the
part of one agent, evaluated on the state at the start of the tick; `State.joint` puts the two parts together.
-/
namespace Sys2Proof.Machine

/-! ### Controller side -/

/-- `S_START` (R144). -/
def State.smStart (s : State) : State :=
  if s.pins.chanAvail then { s with pix := 0, blk := 0, txs := txsSPush }
  else s.raiseHalt causeTxFail

/-- `S_PUSH` (R145): with room a word is pushed and the next pixel, or the drain, follows; a full queue blocks. -/
def State.smPush (s : State) (f : Feed) : State :=
  if s.fifo.length < s.cfg.qdepth then
    if s.pix.toNat + 1 < f.n then
      { s.qPush (f.wordAt s.pix.toNat) with blk := 0, pix := s.pix + 1 }
    else
      { s.qPush (f.wordAt s.pix.toNat) with blk := 0, txs := txsSDrain }
  else s.blocked

/-- `S_DRAIN` (R146): the queue empty and the engine idle, the latch follows; else a disabled engine blocks and an
enabled one clears the count. The success test comes first (R207). -/
def State.smDrain (s : State) : State :=
  if s.fifo = [] ∧ s.est = estIdle then { s with lcnt := 0, txs := txsSLatch }
  else if s.pins.chanAvail then { s with blk := 0 }
  else s.blocked

/-- `S_LATCH` (R147): after `TRESET` ticks the transmit has succeeded. -/
def State.smLatch (s : State) : State :=
  if s.cfg.treset ≤ s.lcnt.toNat + 1 then s.transmitDone else { s with lcnt := s.lcnt + 1 }

/-- The State-Machine controller operation `TXS` selects (R91). -/
def State.smTick (s : State) (f : Feed) : State :=
  if s.txs = txsStart then s.smStart
  else if s.txs = txsSPush then s.smPush f
  else if s.txs = txsSDrain then s.smDrain
  else s.smLatch

/-- `S_START` (R144). -/
def execSStart (s : State) : Host.Outcome State Fault Refusal := s.underWf (.next s.smStart)

/-- `S_PUSH` (R145), the block's store. -/
def execSPush (s : State) : Host.Outcome State Fault Refusal := s.underWf (.next (s.smPush s.frameFeed))

/-- `S_DRAIN` (R146). -/
def execSDrain (s : State) : Host.Outcome State Fault Refusal := s.underWf (.next s.smDrain)

/-- `S_LATCH` (R147). -/
def execSLatch (s : State) : Host.Outcome State Fault Refusal := s.underWf (.next s.smLatch)

/-! ### Bit engine -/

/-- An engine operation is performed if and only if `chan_avail` is 1 (R151); a disabled engine changes nothing. -/
def State.enabled (s : State) (op : State) : State := if s.pins.chanAvail then op else s

/-- `E_IDLE` of an enabled engine (R148): a waiting word is popped and its first symbol begins. -/
def State.engineIdle (s : State) : State :=
  match s.fifo with
  | [] => s
  | w :: rest => s.engineLoad w rest

/-- `E_HIGH` of an enabled engine (R149). -/
def State.engineHigh (s : State) : State :=
  if s.hiEngine ≤ s.esymt.toNat + 1 then
    { s.driveLine false with est := estLow, esymt := s.esymt + 1 }
  else { s with esymt := s.esymt + 1 }

/-- `E_LOW` of an enabled engine (R150): in the symbol's last tick, the word's next bit, the queue's next word without
a gap, or idleness follows. -/
def State.engineLow (s : State) : State :=
  if s.cfg.total ≤ s.esymt.toNat + 1 then
    if 1 < s.ebit.toNat then
      ({ s with eshr := s.eshr <<< 1, ebit := s.ebit - 1 } : State).engineStart
    else
      match s.fifo with
      | [] => { s with est := estIdle }
      | w :: rest => s.engineLoad w rest
  else { s with esymt := s.esymt + 1 }

/-- The engine operation `EST` selects (R92); there is none for the reserved code, from which `step` faults. -/
def State.engineTick (s : State) : State :=
  s.enabled
    (if s.est = estIdle then s.engineIdle
     else if s.est = estHigh then s.engineHigh
     else if s.est = estLow then s.engineLow
     else s)

/-- `E_IDLE` (R148, R151). -/
def execEIdle (s : State) : Host.Outcome State Fault Refusal := s.underWf (.next (s.enabled s.engineIdle))

/-- `E_HIGH` (R149, R151). -/
def execEHigh (s : State) : Host.Outcome State Fault Refusal := s.underWf (.next (s.enabled s.engineHigh))

/-- `E_LOW` (R150, R151). -/
def execELow (s : State) : Host.Outcome State Fault Refusal := s.underWf (.next (s.enabled s.engineLow))

end Sys2Proof.Machine
end

