-- ==== Sys2Proof/Machine/Timer.lean ====
section
/-!
DEFINITION. The Timer-Paced strategy at tick level (spec/41_bit_serializer.md section 3): `T_START`, `T_HIGH`, `T_LOW`,
`T_LATCH`. Each operation is written once over the sequence it sends (a `Feed`); the meaning of the table's row sends
the frame's sequence (R117).
-/
namespace Sys2Proof.Machine

/-- `T_START` (R138): with the channel unavailable the transmit fails; else the first word is loaded and its first
symbol begins. -/
def State.timerStart (s : State) (f : Feed) : State :=
  if s.pins.chanAvail then
    (({ s with pix := 0 } : State).loadShr (f.wordAt 0)).startSymbol.setCrit true
  else
    s.raiseHalt causeTxFail

/-- `T_HIGH` (R139): in the last tick of the high time the line goes low. -/
def State.timerHigh (s : State) : State :=
  if s.hiTimer ≤ s.elapsed.toNat + 1 then { s.driveLine false with txs := txsTLow } else s

/-- `T_LOW` (R140): in the symbol's last tick, the word's next bit, the next pixel's word, or the latch follows. -/
def State.timerLow (s : State) (f : Feed) : State :=
  if s.cfg.total ≤ s.elapsed.toNat + 1 then
    if 1 < s.bitcnt.toNat then
      ({ s with shr := s.shr <<< 1, bitcnt := s.bitcnt - 1 } : State).startSymbol
    else if s.pix.toNat + 1 < f.n then
      (({ s with pix := s.pix + 1 } : State).loadShr (f.wordAt (s.pix.toNat + 1))).startSymbol
    else
      { s.setCrit false with tstart := s.tcnt + 1, txs := txsTLatch }
  else s

/-- `T_LATCH` (R141): after `TRESET` ticks the transmit has succeeded. -/
def State.timerLatch (s : State) : State :=
  if s.cfg.treset ≤ s.elapsed.toNat + 1 then s.transmitDone else s

/-- The Timer-Paced operation `TXS` selects (R90). -/
def State.timerTick (s : State) (f : Feed) : State :=
  if s.txs = txsStart then s.timerStart f
  else if s.txs = txsTHigh then s.timerHigh
  else if s.txs = txsTLow then s.timerLow f
  else s.timerLatch

/-- `T_START` (R138). -/
def execTStart (s : State) : Host.Outcome State Fault Refusal := s.underWf (.next (s.timerStart s.frameFeed))

/-- `T_HIGH` (R139). -/
def execTHigh (s : State) : Host.Outcome State Fault Refusal := s.underWf (.next s.timerHigh)

/-- `T_LOW` (R140). -/
def execTLow (s : State) : Host.Outcome State Fault Refusal := s.underWf (.next (s.timerLow s.frameFeed))

/-- `T_LATCH` (R141). -/
def execTLatch (s : State) : Host.Outcome State Fault Refusal := s.underWf (.next s.timerLatch)

end Sys2Proof.Machine
end

