-- ==== Sys2Proof/Machine/Symbols.lean ====
section
/-!
DEFINITION. The serializer's operations that last more than one tick (spec/41_bit_serializer.md sections 1 and 2): the
wire symbols `BIT0`, `BIT1`, `LATCH`, the pixel `PIXEL`, and the call `TRANSMIT`. The symbols and the pixel put
their waveform on the wire; `TRANSMIT` performs the tick-level operations of the strategy on the sequence it is given
until the transmit has succeeded or failed (R131, R152). They run ticks outside `step`, so they look for reserved codes
as `step` does (spec/30_encoding.md R95, log entry 13).
-/
namespace Sys2Proof.Machine

/-- `BIT0` (R132). -/
def execBit0 (s : State) : Host.Outcome State Fault Refusal :=
  s.underWf (s.underCodes (.next (s.emit (s.cfg.bitWave false))))

/-- `BIT1` (R133). -/
def execBit1 (s : State) : Host.Outcome State Fault Refusal :=
  s.underWf (s.underCodes (.next (s.emit (s.cfg.bitWave true))))

/-- `LATCH` (R134): the low ticks counted inside the transmit. -/
def execLatch (s : State) : Host.Outcome State Fault Refusal :=
  s.underWf (s.underCodes (.next (s.emit s.cfg.latchWave)))

/-- `PIXEL` (R135). -/
def execPixel (w : Word24) (s : State) : Host.Outcome State Fault Refusal :=
  s.underWf (s.underCodes (.next (s.emit (s.cfg.pixelWave w))))

/-- The controller's operation of a tick in `TX` (R184), on a sequence. -/
def State.txTick (s : State) (f : Feed) : State :=
  match s.cfg.strategy with
  | .timer => s.timerTick f
  | .sm => s.smTick f

/-- One whole tick in `TX` (R12, R15, R230). -/
def State.serializerTick (s : State) (f : Feed) : State :=
  if s.pins.rst then s.resetTick
  else
    match s.cfg.strategy with
    | .timer => s.endTick (s.txTick f)
    | .sm => s.endTick (s.joint (s.txTick f) s.engineTick)

/-- Ticks in `TX` until the controller leaves it. -/
def State.transmitRun (f : Feed) : Nat → State → State
  | 0, s => s
  | n + 1, s => if s.cst = cstTx then State.transmitRun f n (s.serializerTick f) else s

/-- More ticks than a transmit of `n` words can take (R152, log entry 12). -/
def State.transmitFuel (s : State) (n : Nat) : Nat :=
  (s.cfg.blockBound + 2) * ((s.fifo.length + n + 2) * (32 * (s.cfg.total + 2)) + n + 2) + s.cfg.treset + 8

/-- What `TRANSMIT` returns, read from where the controller is when it leaves `TX`: success at `ADV`, failure at
`HALT` (R184); nothing when a reset has cut the call off. -/
def State.transmitResult (s : State) : OpResult :=
  if s.cst = cstAdv then .success else if s.cst = cstHalt then .failure else .none

/-- The whole call on a sequence, from the strategy's start operation to the end of the latch, the failure or a reset.
DESIGN CHOICE (log entry 23): R130 has `TRANSMIT` performed while `CST = TX` and says nothing of a call in another state;
executed alone it first puts the controller at the start of `TX`, from every state, `HALT` included, and keeps
`HALT_CAUSE`. `step` never makes the call: in it only a reset leaves `HALT` (spec/60_exceptions.md R210). -/
def State.transmitCall (s : State) (f : Feed) : State :=
  let t := State.transmitRun f (s.transmitFuel f.n) { s with cst := cstTx, txs := txsStart }
  t.returns t.transmitResult

/-- `TRANSMIT` (R130, R131), on 1 to 12 Colors. A reserved code is a fault, but in a tick with `rst = 1`, where the state
does not matter (spec/70_reset_and_hazards.md R230). What it does outside `TX` is log entry 23. -/
def execTransmit (colors : List Color) (sc : Byte) (s : State) : Host.Outcome State Fault Refusal :=
  s.underWf <|
  if (Instr.transmit colors sc).wf = false then .refused .illFormedOperands
  else if s.pins.rst then .next (s.transmitCall (seqFeed s.cfg.chorder colors sc))
  else s.underCodes (.next (s.transmitCall (seqFeed s.cfg.chorder colors sc)))

end Sys2Proof.Machine
end

