-- ==== Sys2Proof/Machine/Loop.lean ====
section
/-!
DEFINITION. The Animation Loop's operations (spec/42_animation_loop.md R181 to R187): what the controller does in one
tick, selected by `CST`. What the other agents do in that tick is added by the step (spec/00_scope.md R15).
-/
namespace Sys2Proof.Machine

/-- `INITCHK` (R181). -/
def execInitchk (s : State) : Host.Outcome State Fault Refusal :=
  s.underWf (.next (if s.pins.initOk then s.goTo cstRead else s.raiseHalt causeInitFail))

/-- `RDPHASE` (R182), step 1. -/
def execRdphase (s : State) : Host.Outcome State Fault Refusal :=
  s.underWf (.next (({ s with phl := s.phase } : State).goTo cstSeq))

/-- `SEQ` (R183), step 2. -/
def execSeq (s : State) : Host.Outcome State Fault Refusal :=
  s.underWf (.next (({ s with col := sequencer s.cfg s.phl, txs := txsStart } : State).goTo cstTx))

/-- `TX` (R184), step 3: the tick-level operation `TXS` selects, on the frame's sequence (R117). -/
def execTx (s : State) : Host.Outcome State Fault Refusal := s.underWf (.next (s.txTick s.frameFeed))

/-- `ADVANCE` (R185), step 4. -/
def execAdvance (s : State) : Host.Outcome State Fault Refusal :=
  s.underWf (.next (({ s with phase := s.phase + 1, ftmr := BitVec.ofNat 32 s.cfg.frameTicks } : State).goTo cstWait))

/-- `WAITFRAME` (R186), step 5. -/
def execWaitframe (s : State) : Host.Outcome State Fault Refusal :=
  s.underWf (.next (if s.ftmr.toNat ≤ 1 then s.goTo cstRead else { s with ftmr := s.ftmr - 1 }))

/-- `HALT` (R187): the controller changes no register. -/
def execHalt (s : State) : Host.Outcome State Fault Refusal := s.underWf (.next s)

end Sys2Proof.Machine
end

