-- ==== Sys2Proof/Machine/Dispatch.lean ====
section
/-!
DEFINITION. The meaning of every operation: one arm per constructor of `Instr`.
-/
namespace Sys2Proof.Machine

def exec (i : Instr) (s : State) : Host.Outcome State Fault Refusal :=
  match i with
  | .initchk => Sys2Proof.Machine.execInitchk s
  | .rdphase => Sys2Proof.Machine.execRdphase s
  | .seq => Sys2Proof.Machine.execSeq s
  | .tx => Sys2Proof.Machine.execTx s
  | .advance => Sys2Proof.Machine.execAdvance s
  | .waitframe => Sys2Proof.Machine.execWaitframe s
  | .halt => Sys2Proof.Machine.execHalt s
  | .wheel => Sys2Proof.Machine.execWheel s
  | .hsv => Sys2Proof.Machine.execHsv s
  | .tStart => Sys2Proof.Machine.execTStart s
  | .tHigh => Sys2Proof.Machine.execTHigh s
  | .tLow => Sys2Proof.Machine.execTLow s
  | .tLatch => Sys2Proof.Machine.execTLatch s
  | .sStart => Sys2Proof.Machine.execSStart s
  | .sPush => Sys2Proof.Machine.execSPush s
  | .sDrain => Sys2Proof.Machine.execSDrain s
  | .sLatch => Sys2Proof.Machine.execSLatch s
  | .eIdle => Sys2Proof.Machine.execEIdle s
  | .eHigh => Sys2Proof.Machine.execEHigh s
  | .eLow => Sys2Proof.Machine.execELow s
  | .bit0 => Sys2Proof.Machine.execBit0 s
  | .bit1 => Sys2Proof.Machine.execBit1 s
  | .latch => Sys2Proof.Machine.execLatch s
  | .pixel w => Sys2Proof.Machine.execPixel w s
  | .scale c sc => Sys2Proof.Machine.execScale c sc s
  | .transmit colors sc => Sys2Proof.Machine.execTransmit colors sc s

end Sys2Proof.Machine
end

