-- ==== Sys2Proof/Machine/Fetch.lean ====
section
/-!
DEFINITION. How a tick's operations are selected and their parts put together: NPX fetches nothing from a memory; the
controller's operation is the one its register `CST` encodes (spec/30_encoding.md R89) and, when `STRATEGY = SM`, the
bit engine's is the one `EST` encodes (R92). A reserved code is a fault (R95).
-/
namespace Sys2Proof.Machine

/-- The encoded operation the controller's registers select in this tick. -/
def State.ctlCode (s : State) : Code := .cst s.cst

/-- The encoded operation of the serializer the registers select while `CST = TX` (R90, R91). -/
def State.txCode (s : State) : Code :=
  match s.cfg.strategy with
  | .timer => .txsTimer s.txs
  | .sm => .txsSm s.txs

/-- The controller's operation in this tick, and the bit engine's when there is one. -/
def State.fetch (s : State) : Except Fault (Instr × Option Instr) :=
  if s.haltCause = causeReserved then .error .reservedHaltCause
  else
    match decode s.cfg s.ctlCode with
    | .error _ => .error .reservedCst
    | .ok i =>
      match s.cfg.strategy with
      | .timer => .ok (i, none)
      | .sm =>
        match decode s.cfg (.est s.est) with
        | .error _ => .error .reservedEst
        | .ok j => .ok (i, some j)

/-- The outcome of a tick, given what its operations did to `s`: the controller's part `c` and, if there is an engine,
its part `e`. A part that stops stops the step. -/
def State.tickOf (s : State) (c : Host.Outcome State Fault Refusal)
    (e : Option (Host.Outcome State Fault Refusal)) : Host.Outcome State Fault Refusal :=
  match c, e with
  | .next t, none => .next (s.endTick t)
  | .next t, some (.next u) => .next (s.endTick (s.joint t u))
  | .next _, some (.fault x) => .fault x
  | .next _, some (.refused x) => .refused x
  | .fault x, _ => .fault x
  | .refused x, _ => .refused x

/-- The controller in `TX` at a sub-state of a strategy. -/
def State.atTx (s : State) (st : Strategy) (c : BitVec 2) : State :=
  { s with cst := cstTx, txs := c, cfg := { s.cfg with strategy := st } }

/-- The Timer-Paced serializer in the first tick of the symbol of bit 23 of `w`, with `n` bits to send. -/
def State.atSymbol (s : State) (w : Word24) (n : BitVec 5) : State :=
  { s.atTx .timer txsTHigh with
    shr := w, bitcnt := n, tstart := s.tcnt, dout := true, crit := true }

/-- The registers set so that the next step performs an operation, as the operation's format selects it (R101): the
code in `CST`; `POLICY` with the controller at `SEQ`; the code in `TXS` with the controller at `TX` under its
strategy; the code in `EST` under `SM`. An operation no register selects is placed as the tick-level operation that
begins it: a bit or a pixel as the first tick of its symbol, the latch as its first tick, a function of the transmit
as the transmit's start. -/
def State.placeOp (s : State) (i : Instr) : State :=
  match i with
  | .initchk => { s with cst := cstInit }
  | .rdphase => { s with cst := cstRead }
  | .seq => { s with cst := cstSeq }
  | .tx => { s with cst := cstTx }
  | .advance => { s with cst := cstAdv }
  | .waitframe => { s with cst := cstWait }
  | .halt => { s with cst := cstHalt }
  | .wheel => { s with cst := cstSeq, cfg := { s.cfg with policy := .wheel } }
  | .hsv => { s with cst := cstSeq, cfg := { s.cfg with policy := .hsv } }
  | .tStart => s.atTx .timer txsStart
  | .tHigh => s.atTx .timer txsTHigh
  | .tLow => s.atTx .timer txsTLow
  | .tLatch => s.atTx .timer txsTLatch
  | .sStart => s.atTx .sm txsStart
  | .sPush => s.atTx .sm txsSPush
  | .sDrain => s.atTx .sm txsSDrain
  | .sLatch => s.atTx .sm txsSLatch
  | .eIdle => { s with est := estIdle, cfg := { s.cfg with strategy := .sm } }
  | .eHigh => { s with est := estHigh, cfg := { s.cfg with strategy := .sm } }
  | .eLow => { s with est := estLow, cfg := { s.cfg with strategy := .sm } }
  | .bit0 => s.atSymbol 0 1
  | .bit1 => s.atSymbol (1#24 <<< 23) 1
  | .pixel w => s.atSymbol w 24
  | .latch => { s.atTx .timer txsTLatch with tstart := s.tcnt, dout := false }
  | .scale _ _ => s.atTx s.cfg.strategy txsStart
  | .transmit _ _ => s.atTx s.cfg.strategy txsStart

end Sys2Proof.Machine
end

