-- ==== Sys2Proof/Machine/Step.lean ====
section
/-!
DEFINITION. One step is one tick (spec/00_scope.md R10, R15): an ill-formed configuration is refused (R8); `rst` is
dominant (spec/70_reset_and_hazards.md R230); else the operations the registers select are executed on the state at
the start of the tick and their parts joined.
-/
namespace Sys2Proof.Machine

/-- One tick. -/
def step (s : State) : Host.Outcome State Fault Refusal :=
  if s.cfg.wf = false then .refused .illFormedConfig
  else if s.pins.rst then .next s.resetTick
  else
    match s.fetch with
    | .error x => .fault x
    | .ok (i, none) => s.tickOf (exec i s) none
    | .ok (i, some j) => s.tickOf (exec i s) (some (exec j s))

/-- The state with the operation of a table word selected for the next step (log entry 15). -/
def State.withFetchWord (s : State) (nbits w : Nat) : State :=
  match decodeTableWord nbits w with
  | none => s
  | some i => s.placeOp i

end Sys2Proof.Machine
end

