-- ==== Sys2Proof/Machine/Frame.lean ====
section
/-!
DEFINITION. The frame-level semantics (spec/42_animation_loop.md R190), "for a model that does not count ticks": the
state is the phase, whether the block has halted and why; a frame's output is a wire trace of symbols
(spec/00_scope.md R14). The tick-level machine of `step` refines it (spec/41_bit_serializer.md R155).
-/
namespace Sys2Proof.Machine

/-- A symbol of a wire trace (R14). -/
inductive Symbol where
  | bit0
  | bit1
  | latch
deriving DecidableEq, Repr

/-- `BIT(b)` (R14). -/
def Symbol.bit (b : Bool) : Symbol := if b then .bit1 else .bit0

/-- The least waveform of a symbol (R81, R82). -/
def Symbol.wave (cfg : Config) : Symbol → List Bool
  | .bit0 => cfg.bitWave false
  | .bit1 => cfg.bitWave true
  | .latch => cfg.latchWave

/-- `PIXEL(w)` (R14): the 24 symbols of the word, bit 23 first. -/
def pixelTrace (w : Word24) : List Symbol := (wordBits 24 w).map Symbol.bit

/-- `TRANSMIT(seq, s)` on the wire (R130): the pixels of the sequence's words, then one latch. -/
def transmitTrace (o : ChOrder) (colors : List Color) (s : Byte) : List Symbol :=
  colors.flatMap (fun c => pixelTrace (wordOf o c s)) ++ [.latch]

/-- The frame-level state (R190). -/
structure FrameState where
  phase : Byte
  halted : Bool
  cause : BitVec 2
  trace : List Symbol
deriving DecidableEq, Repr

/-- The frame-level state at reset (R190). -/
def FrameState.reset (cfg : Config) (initOk : Bool) : FrameState where
  phase := cfg.phaseInit
  halted := !initOk
  cause := if initOk then causeNone else causeInitFail
  trace := []

/-- What a frame does to the wire when its transmit succeeds (R190): the transmit of `NPIX` copies of its colour. -/
def frameTrace (cfg : Config) (φ : Byte) : List Symbol :=
  transmitTrace cfg.chorder (List.replicate cfg.npix (sequencer cfg φ)) cfg.scale

/-- How a frame's transmit ends (R190). The inputs of the frame's ticks decide it, and at frame level nothing else is
said of them. -/
inductive FrameEvent where
  /-- the channel is available throughout: the transmit succeeds -/
  | sent
  /-- the transmit fails with this many symbols of the frame put on the wire; 0 when it fails at its start -/
  | failed (symbols : Nat)
deriving DecidableEq, Repr

/-- What a failed transmit adds to the wire trace (R190): nothing in `TIMER`, where it always fails at its start; in
`SM` the prefix of the frame that was sent (spec/60_exceptions.md R219). -/
def failTrace (cfg : Config) (φ : Byte) (symbols : Nat) : List Symbol :=
  match cfg.strategy with
  | .timer => []
  | .sm => (frameTrace cfg φ).take symbols

/-- One frame (R190); a halted block makes none. An ill-formed configuration has no meaning (R8), and the reserved cause
is a fault (spec/30_encoding.md R95). -/
def FrameState.frame (cfg : Config) (e : FrameEvent) (f : FrameState) : Host.Outcome FrameState Fault Refusal :=
  if cfg.wf = false then .refused .illFormedConfig
  else if f.cause = causeReserved then .fault .reservedHaltCause
  else if f.halted then .next f
  else
    match e with
    | .sent => .next { f with phase := f.phase + 1, trace := f.trace ++ frameTrace cfg f.phase }
    | .failed symbols =>
      .next { f with halted := true, cause := causeTxFail, trace := f.trace ++ failTrace cfg f.phase symbols }

/-- Frames one after the other. -/
def FrameState.run (cfg : Config) : List FrameEvent → FrameState → Host.Outcome FrameState Fault Refusal
  | [], f => .next f
  | e :: es, f =>
    match f.frame cfg e with
    | .next g => FrameState.run cfg es g
    | .fault r => .fault r
    | .refused r => .refused r

end Sys2Proof.Machine
end

