-- ==== Sys2Proof/Safety.lean ====
section
/-!
DEFINITION. What counts as a safe run, in the terms claims use: the conditions on a state that every step keeps (the
reserved codes, the cause, the queue, the line, the counters), and the premises claims make about the environment
(spec/70_reset_and_hazards.md R244).
-/
namespace Sys2Proof.Machine

/-- No register holds a reserved code (spec/30_encoding.md R95). -/
abbrev State.CodesLegal (s : State) : Prop :=
  s.cst ≠ cstReserved ∧ s.est ≠ estReserved ∧ s.haltCause ≠ causeReserved

/-- No register that selects an operation or records a cause holds a reserved code; `EST` counts in `SM` only (R92, R95). -/
abbrev State.CodesRun (s : State) : Prop :=
  s.cst ≠ cstReserved ∧ s.haltCause ≠ causeReserved ∧ (s.cfg.strategy = .sm → s.est ≠ estReserved)

/-- A cause is recorded exactly when the block has halted (spec/10_state.md R35). -/
abbrev State.CauseMatches (s : State) : Prop :=
  s.cst = cstHalt ↔ s.haltCause = causeInitFail ∨ s.haltCause = causeTxFail

/-- The TX queue holds at most `QDEPTH` words (spec/20_memory.md R75). -/
abbrev State.QueueBounded (s : State) : Prop :=
  s.cfg.strategy = .sm → s.fifo.length ≤ s.cfg.qdepth

/-- In `TIMER` the line is high exactly in `T_HIGH`, and `CRIT` is 1 exactly in `T_HIGH` and `T_LOW`
(spec/41_bit_serializer.md R143). -/
abbrev State.LineTimer (s : State) : Prop :=
  s.cfg.strategy = .timer →
    (s.dout = true ↔ s.cst = cstTx ∧ s.txs = txsTHigh) ∧
    (s.crit = true ↔ s.cst = cstTx ∧ (s.txs = txsTHigh ∨ s.txs = txsTLow))

/-- In `SM` the line is high exactly in `E_HIGH`, and `CRIT` is 0 (spec/10_state.md R34). -/
abbrev State.LineSm (s : State) : Prop :=
  s.cfg.strategy = .sm → (s.dout = true ↔ s.est = estHigh) ∧ s.crit = false

/-- The queue is empty and the engine idle. -/
abbrev State.EngineQuiet (s : State) : Prop := s.fifo = [] ∧ s.est = estIdle

/-- The controller is where, in `SM`, nothing is left to send (spec/42_animation_loop.md R188,
spec/60_exceptions.md R201): outside `TX` without a transmission failure, at a transmit's start, in its latch. -/
abbrev State.NothingToSend (s : State) : Prop :=
  (s.cst ≠ cstTx ∧ s.haltCause ≠ causeTxFail) ∨ (s.cst = cstTx ∧ (s.txs = txsStart ∨ s.txs = txsSLatch))

/-- In `SM`, where nothing is left to send the queue is empty and the engine idle. -/
abbrev State.QuietOutsideTx (s : State) : Prop :=
  s.cfg.strategy = .sm → s.NothingToSend → s.EngineQuiet

/-- The counter ranges of spec/70_reset_and_hazards.md R240, with the bound on the engine's high phase that keeps
`ESYMT` in range. -/
abbrev State.CountersInRange (s : State) : Prop :=
  s.ftmr.toNat ≤ s.cfg.frameTicks ∧ s.lcnt.toNat < s.cfg.treset ∧
  s.esymt.toNat < s.cfg.total ∧ (s.est = estHigh → s.esymt.toNat < s.hiEngine) ∧
  s.blk.toNat ≤ s.cfg.blockBound ∧ s.bitcnt.toNat ≤ 24 ∧ s.ebit.toNat ≤ 24 ∧ s.pix.toNat ≤ 11

/-- Inside a transmit, after its start, `PIX < NPIX` (spec/10_state.md R26). -/
abbrev State.PixInFrame (s : State) : Prop :=
  s.cst = cstTx → s.txs ≠ txsStart → s.pix.toNat < s.cfg.npix

/-- The Timer-Paced waits are inside their intervals (spec/41_bit_serializer.md R142). -/
abbrev State.PacedInTime (s : State) : Prop :=
  s.cfg.strategy = .timer → s.cst = cstTx →
    (s.txs = txsTHigh → s.elapsed.toNat < s.hiTimer) ∧
    (s.txs = txsTLow → s.elapsed.toNat < s.cfg.total) ∧
    (s.txs = txsTLatch → s.elapsed.toNat < s.cfg.treset)

/-- No reset is asserted in the next `n` ticks, this one included. -/
abbrev State.NoResetFor (s : State) (n : Nat) : Prop := ∀ k, k < n → (s.pinsAt k).rst = false

/-- The channel is available in the next `n` ticks, this one included (R244's "keep `chan_avail = 1`"). -/
abbrev State.ChannelFor (s : State) (n : Nat) : Prop := ∀ k, k < n → (s.pinsAt k).chanAvail = true

/-- A step is safe when it has a next state. -/
abbrev SafeStep (s : State) : Prop := ∃ t, step s = .next t

end Sys2Proof.Machine
end

