-- ==== Sys2Proof/Certificates/Slice0/Obligations.lean ====
section
/-!
DEFINITION. The statements for the provers. Each docstring names the rule of spec/ the statement formalises. Results are
written as equations `exec i s = .next { s with … }`: the record update says what is written and, by naming nothing
else, that every other register, the queue, the wire and the parameters keep their values.
-/
open Sys2Proof Sys2Proof.Machine

/-! ### Reset and the step -/

/-- spec/10_state.md R44: the table of reset values, for every configuration, every counter value and every input;
the registers the table calls unspecified are not mentioned. -/
def Obligations.ResetState : Prop :=
  ∀ (cfg : Config) (tcnt : Word32) (pins : Pins),
    (State.resetWith cfg tcnt pins).phase = cfg.phaseInit ∧
    (State.resetWith cfg tcnt pins).cst = 0b000#3 ∧
    (State.resetWith cfg tcnt pins).txs = 0b00#2 ∧
    (State.resetWith cfg tcnt pins).dout = false ∧
    (State.resetWith cfg tcnt pins).crit = false ∧
    (State.resetWith cfg tcnt pins).haltCause = 0b00#2 ∧
    (State.resetWith cfg tcnt pins).fifo = [] ∧
    (State.resetWith cfg tcnt pins).est = 0b00#2 ∧
    (State.resetWith cfg tcnt pins).tcnt = tcnt

/-- spec/70_reset_and_hazards.md R230 with R44: in a tick with `rst = 1` the next state is the reset state, whatever
the state and the other inputs are; `TCNT` alone keeps counting. -/
def Obligations.ResetDominates : Prop :=
  ∀ s : State, s.cfg.wf = true → s.pins.rst = true →
    ∃ t, step s = .next t ∧
      t.phase = s.cfg.phaseInit ∧ t.cst = 0b000#3 ∧ t.txs = 0b00#2 ∧ t.dout = false ∧ t.crit = false ∧
      t.haltCause = 0b00#2 ∧ t.fifo = [] ∧ t.est = 0b00#2 ∧ t.tcnt = s.tcnt + 1

/-- spec/10_state.md R41, spec/00_scope.md R10: the output ports of a tick are the registers of that tick's state, and
`halted` is 1 exactly when `CST` is `HALT`. -/
def Obligations.PortsShown : Prop :=
  ∀ s : State,
    s.ports.dout = s.dout ∧ s.ports.crit = s.crit ∧ s.ports.haltCause = s.haltCause ∧ s.ports.cst = s.cst ∧
    s.ports.phase = s.phase ∧ (s.ports.halted = true ↔ s.cst = 0b111#3)

/-- spec/00_scope.md R8: the conditions of a well-formed `Config`. A step, every operation and every frame of the
frame-level semantics refuse the configurations that do not meet them; a step refuses no other. That the refusal stands in
these places is the model's choice (log entry 16). -/
def Obligations.IllFormedConfigRefused : Prop :=
  (∀ cfg : Config,
    cfg.wf = true ↔
      (1 ≤ cfg.t0h ∧ cfg.t0h < cfg.t1h ∧ cfg.t1h < cfg.total ∧ cfg.total < 2 ^ 32 ∧
        1 ≤ cfg.treset ∧ cfg.treset < 2 ^ 32 ∧ 1 ≤ cfg.frameTicks ∧ cfg.frameTicks < 2 ^ 32 ∧
        1 ≤ cfg.npix ∧ cfg.npix ≤ 12 ∧
        (cfg.strategy = .sm → 1 ≤ cfg.qdepth ∧ cfg.blockBound < 2 ^ 32))) ∧
  (∀ s : State, s.cfg.wf = false →
    step s = .refused .illFormedConfig ∧ ∀ i : Instr, exec i s = .refused .illFormedConfig) ∧
  (∀ (s : State) (r : Refusal), s.cfg.wf = true → step s ≠ .refused r) ∧
  (∀ (s : State) (i : Instr), s.cfg.wf = true → exec i s ≠ .refused .illFormedConfig) ∧
  ∀ (cfg : Config) (e : FrameEvent) (f : FrameState),
    cfg.wf = false ↔ FrameState.frame cfg e f = .refused .illFormedConfig

/-- spec/30_encoding.md R95: a step from a reserved code is a fault, and so are `TRANSMIT`, the symbols and the pixel, which
run ticks of their own, and a frame of the frame-level semantics from the reserved cause; no channel order has code 6 or
7; from every other state of a well-formed configuration, and with `rst = 1` from every state (R230), a step has a next state (spec/93_implementation_defined.md:
"every state has a step"). That codes are bit vectors, and where the faults are raised, are the model's choices (log entry
13). -/
def Obligations.ReservedCodesFault : Prop :=
  (∀ s : State, s.cfg.wf = true → s.pins.rst = false →
    (s.haltCause = 0b11#2 → step s = .fault .reservedHaltCause) ∧
    (s.haltCause ≠ 0b11#2 → s.cst = 0b110#3 → step s = .fault .reservedCst) ∧
    (s.haltCause ≠ 0b11#2 → s.cst ≠ 0b110#3 → s.cfg.strategy = .sm → s.est = 0b11#2 →
      step s = .fault .reservedEst)) ∧
  (∀ (s : State) (i : Instr), s.cfg.wf = true → s.pins.rst = false → i.wf = true →
    (i = .bit0 ∨ i = .bit1 ∨ i = .latch ∨ (∃ w, i = .pixel w) ∨ ∃ colors sc, i = .transmit colors sc) →
    (s.haltCause = 0b11#2 → exec i s = .fault .reservedHaltCause) ∧
    (s.haltCause ≠ 0b11#2 → s.cst = 0b110#3 → exec i s = .fault .reservedCst) ∧
    (s.haltCause ≠ 0b11#2 → s.cst ≠ 0b110#3 → s.cfg.strategy = .sm → s.est = 0b11#2 →
      exec i s = .fault .reservedEst)) ∧
  (∀ (cfg : Config) (e : FrameEvent) (f : FrameState), cfg.wf = true → f.cause = 0b11#2 →
    FrameState.frame cfg e f = .fault .reservedHaltCause) ∧
  ChOrder.ofCode 6 = none ∧ ChOrder.ofCode 7 = none ∧
  ∀ s : State, s.cfg.wf = true → s.CodesRun ∨ s.pins.rst = true → SafeStep s

/-- A step runs the operation `CST` decodes to (spec/30_encoding.md R89); around it the counter counts, the input
ports show their next samples, and the line's level goes on the wire (spec/00_scope.md R10, R14, R15). In `SM` the bit
engine's operation, the one `EST` decodes to (R92), runs in the same tick on the same state: the engine writes the line
and its own registers, and the queue is what the engine left followed by what the controller pushed (spec/00_scope.md
R12, spec/20_memory.md R74). The fields `pins`, `script` and `wire` are the model's (log entries 5, 6 and 9). -/
def Obligations.StepRunsDecoded : Prop :=
  ∀ (s : State) (i : Instr), s.cfg.wf = true → s.pins.rst = false → s.haltCause ≠ causeReserved →
    decode s.cfg (.cst s.cst) = .ok i →
    (s.cfg.strategy = .timer →
      step s = s.tickOf (exec i s) none ∧
      ∃ c, exec i s = .next c ∧
        step s = .next { c with
          tcnt := s.tcnt + 1
          pins := s.pinsAt 1
          script := s.script.drop 1
          wire := s.wire ++ [s.dout] }) ∧
    (s.cfg.strategy = .sm → ∀ j, decode s.cfg (.est s.est) = .ok j →
      step s = s.tickOf (exec i s) (some (exec j s)) ∧
      ∃ c e, exec i s = .next c ∧ exec j s = .next e ∧
        step s = .next { c with
          dout := e.dout
          est := e.est
          eshr := e.eshr
          ebit := e.ebit
          esymt := e.esymt
          fifo := e.fifo ++ c.fifo.drop s.fifo.length
          tcnt := s.tcnt + 1
          pins := s.pinsAt 1
          script := s.script.drop 1
          wire := s.wire ++ [s.dout] })

/-! ### Encodings -/

/-- A few encodings written out from spec/30_encoding.md: R89 to R94 codes, R81 waveforms of `CFG_A` and `CFG_B`, a
low run longer than the latch (R82), a pixel word (R83); and the reserved codes of R95 rejected. -/
def Obligations.DecodingSanity : Prop :=
  decode Config.cfgA (.cst 0b000#3) = .ok .initchk ∧
  decode Config.cfgA (.cst 0b011#3) = .ok .tx ∧
  decode Config.cfgA (.cst 0b111#3) = .ok .halt ∧
  decode Config.cfgA (.cst 0b110#3) = .error .reservedCst ∧
  decode Config.cfgA (.policy 1#1) = .ok .hsv ∧
  decode Config.cfgA (.txsTimer 0b10#2) = .ok .tLow ∧
  decode Config.cfgB (.txsSm 0b10#2) = .ok .sDrain ∧
  decode Config.cfgB (.est 0b01#2) = .ok .eHigh ∧
  decode Config.cfgB (.est 0b11#2) = .error .reservedEst ∧
  decode Config.cfgA (.symbol [true, false, false]) = .ok .bit0 ∧
  decode Config.cfgA (.symbol [true, true, false]) = .ok .bit1 ∧
  decode Config.cfgB (.symbol [true, true, false, false, false, false, false, false, false, false]) = .ok .bit0 ∧
  decode { Config.cfgA with treset := 3 } (.symbol [false, false, false, false]) = .ok .latch ∧
  decode { Config.cfgA with treset := 3 } (.symbol [false, false]) = .error .notASymbol ∧
  decode Config.cfgA (.word 0x0F0010#24) = .ok (.pixel 0x0F0010#24)

/-- Decoding the encoding of a well-formed operation gives it back, for every operation, every operand and every
well-formed configuration (spec/30_encoding.md R81 to R95, R101). The formats' tags and the operand bytes of `SCALE` and
`TRANSMIT` are the model's choice (log entry 14). -/
def Obligations.DecodeEncode : Prop :=
  ∀ (cfg : Config) (i : Instr), cfg.wf = true → i.wf = true → decode cfg (encode cfg i) = .ok i

/-- An encoded operation that decodes is the encoding of what it decodes to, but for `LATCH`, the one symbol of many
lengths (spec/30_encoding.md R98): exactly the low runs of at least `TRESET` ticks are latches (R82).
The codes are those of R81, R83 and R89 to R94; the formats' tags (R101) and the operand bytes of `SCALE` and `TRANSMIT`
are the model's choice (log entry 14). -/
def Obligations.EncodeDecode : Prop :=
  ∀ cfg : Config, cfg.wf = true →
    (∀ (c : Code) (i : Instr), decode cfg c = .ok i → i ≠ .latch → encode cfg i = c) ∧
    (∀ ticks : List Bool,
      decode cfg (.symbol ticks) = .ok .latch ↔ ∃ k, cfg.treset ≤ k ∧ ticks = List.replicate k false)

/-! ### The loop -/

/-- spec/42_animation_loop.md R181: the check of `init_ok`. -/
def Obligations.InitchkResult : Prop :=
  ∀ s : State, s.cfg.wf = true →
    (s.pins.initOk = true → exec .initchk s = .next { s with cst := 0b001#3 }) ∧
    (s.pins.initOk = false → exec .initchk s = .next { s with haltCause := 0b01#2, cst := 0b111#3 })

/-- spec/42_animation_loop.md R182: `PHL <- PHASE; CST <- SEQ`. -/
def Obligations.RdphaseResult : Prop :=
  ∀ s : State, s.cfg.wf = true → exec .rdphase s = .next { s with phl := s.phase, cst := 0b010#3 }

/-- spec/42_animation_loop.md R183: the colour of the policy, the transmit's start, `CST <- TX`. -/
def Obligations.SeqResult : Prop :=
  ∀ s : State, s.cfg.wf = true →
    (s.cfg.policy = .wheel →
      exec .seq s = .next { s with col := wheel s.phl, txs := 0b00#2, cst := 0b011#3 }) ∧
    (s.cfg.policy = .hsv →
      exec .seq s = .next { s with
        col := Config.hsv2rgb s.phl s.cfg.hsvSat s.cfg.hsvVal, txs := 0b00#2, cst := 0b011#3 })

/-- spec/42_animation_loop.md R184: `TX` performs the tick-level operation `TXS` selects under the strategy. -/
def Obligations.TxRunsSelected : Prop :=
  ∀ s : State, s.cfg.wf = true →
    (s.cfg.strategy = .timer →
      ∃ j t, decode s.cfg (.txsTimer s.txs) = .ok j ∧ exec .tx s = .next t ∧ exec j s = .next t) ∧
    (s.cfg.strategy = .sm →
      ∃ j t, decode s.cfg (.txsSm s.txs) = .ok j ∧ exec .tx s = .next t ∧ exec j s = .next t)

/-- spec/42_animation_loop.md R185: the wrapping increment of the phase and the loading of the wait. -/
def Obligations.AdvanceResult : Prop :=
  ∀ s : State, s.cfg.wf = true →
    ∃ t, exec .advance s = .next t ∧
      t.phase.toNat = (s.phase.toNat + 1) % 256 ∧ t.ftmr.toNat = s.cfg.frameTicks ∧
      t = { s with phase := t.phase, ftmr := t.ftmr, cst := 0b101#3 }

/-- spec/42_animation_loop.md R186: one tick of the wait. -/
def Obligations.WaitframeResult : Prop :=
  ∀ s : State, s.cfg.wf = true →
    (s.ftmr.toNat ≤ 1 → exec .waitframe s = .next { s with cst := 0b001#3 }) ∧
    (1 < s.ftmr.toNat →
      ∃ f : Word32, f.toNat = s.ftmr.toNat - 1 ∧ exec .waitframe s = .next { s with ftmr := f })

/-- spec/42_animation_loop.md R187, spec/60_exceptions.md R210, R211: `HALT` changes no register; without `rst` a halted
block stays halted, its cause and its controller registers hold, in `TIMER` the line holds, and `TCNT` counts on. -/
def Obligations.HaltAbsorbs : Prop :=
  (∀ s : State, s.cfg.wf = true → exec .halt s = .next s) ∧
  ∀ s t : State, s.cst = cstHalt → s.pins.rst = false → step s = .next t →
    t.cst = cstHalt ∧ t.haltCause = s.haltCause ∧ t.phase = s.phase ∧ t.phl = s.phl ∧ t.col = s.col ∧
    t.txs = s.txs ∧ t.pix = s.pix ∧ t.ftmr = s.ftmr ∧ t.shr = s.shr ∧ t.bitcnt = s.bitcnt ∧ t.tstart = s.tstart ∧
    t.lcnt = s.lcnt ∧ t.blk = s.blk ∧ t.crit = s.crit ∧ t.tcnt = s.tcnt + 1 ∧
    (s.cfg.strategy = .timer → t.dout = s.dout ∧ t.fifo = s.fifo)

/-- spec/42_animation_loop.md R189: every transition of `CST`, complete. -/
def Obligations.CstTransitions : Prop :=
  ∀ s t : State, s.pins.rst = false → step s = .next t →
    (s.cst = cstInit → t.cst = if s.pins.initOk then cstRead else cstHalt) ∧
    (s.cst = cstRead → t.cst = cstSeq) ∧
    (s.cst = cstSeq → t.cst = cstTx) ∧
    (s.cst = cstTx → t.cst = cstTx ∨ t.cst = cstAdv ∧ t.txs = txsStart ∨ t.cst = cstHalt ∧ t.haltCause = causeTxFail) ∧
    (s.cst = cstAdv → t.cst = cstWait) ∧
    (s.cst = cstWait → t.cst = if s.ftmr.toNat ≤ 1 then cstRead else cstWait) ∧
    (s.cst = cstHalt → t.cst = cstHalt)

/-- Which steps write the loop's registers: `PHASE` only `ADVANCE` (spec/10_state.md R21), `PHL` only `RDPHASE` (R22),
`COL` only `SEQ` (R23), `FTMR` only `ADVANCE` and `WAITFRAME` (R27), reset apart; the configuration none, reset included
(R38, spec/00_scope.md R3). -/
def Obligations.LoopRegisterWriters : Prop :=
  ∀ s t : State, step s = .next t →
    t.cfg = s.cfg ∧
    (s.pins.rst = false →
      (t.phase = if s.cst = cstAdv then s.phase + 1 else s.phase) ∧
      (t.phl = if s.cst = cstRead then s.phase else s.phl) ∧
      (s.cst ≠ cstSeq → t.col = s.col) ∧
      (s.cst ≠ cstAdv → s.cst ≠ cstWait → t.ftmr = s.ftmr))

/-! ### Failures -/

/-- spec/60_exceptions.md R208: entering `HALT` records a cause and writes nothing else the controller owns. -/
def Obligations.HaltEntry : Prop :=
  ∀ s t : State, s.pins.rst = false → s.cst ≠ cstHalt → step s = .next t → t.cst = cstHalt →
    (t.haltCause = causeInitFail ∨ t.haltCause = causeTxFail) ∧
    t.phase = s.phase ∧ t.phl = s.phl ∧ t.col = s.col ∧ t.txs = s.txs ∧ t.pix = s.pix ∧ t.ftmr = s.ftmr ∧
    t.shr = s.shr ∧ t.bitcnt = s.bitcnt ∧ t.tstart = s.tstart ∧ t.lcnt = s.lcnt ∧ t.blk = s.blk ∧ t.crit = s.crit ∧
    t.tcnt = s.tcnt + 1 ∧
    (s.cfg.strategy = .timer → t.dout = s.dout ∧ t.fifo = s.fifo)

/-- spec/60_exceptions.md R201, spec/41_bit_serializer.md R152: exactly when a running block halts, and why. -/
def Obligations.HaltExactlyWhen : Prop :=
  ∀ s t : State, s.pins.rst = false → s.cst ≠ cstHalt → step s = .next t →
    (t.cst = cstHalt ↔
      (s.cst = cstInit ∧ s.pins.initOk = false) ∨
      (s.cst = cstTx ∧ s.txs = txsStart ∧ s.pins.chanAvail = false) ∨
      (s.cst = cstTx ∧ s.cfg.strategy = .sm ∧ s.cfg.blockBound ≤ s.blk.toNat ∧
        ((s.txs = txsSPush ∧ s.cfg.qdepth ≤ s.fifo.length) ∨
          (s.txs = txsSDrain ∧ ¬ s.EngineQuiet ∧ s.pins.chanAvail = false)))) ∧
    (t.cst = cstHalt → t.haltCause = if s.cst = cstInit then causeInitFail else causeTxFail)

/-- spec/60_exceptions.md R201, R219: after an initialization failure the block is halted in every later tick and the
line was and stays low, whatever the inputs but `rst`. -/
def Obligations.InitFailDark : Prop :=
  ∀ (cfg : Config) (tcnt : Word32) (pins : Pins) (script : List Pins) (n : Nat),
    cfg.wf = true → pins.initOk = false →
    ({ State.resetWith cfg tcnt pins with script := script } : State).NoResetFor (n + 1) →
    ∃ t, Host.Core.run core (n + 1) ({ State.resetWith cfg tcnt pins with script := script } : State) = .next t ∧
      t.cst = cstHalt ∧ t.haltCause = causeInitFail ∧ t.phase = cfg.phaseInit ∧ t.dout = false ∧
      t.wire = List.replicate (n + 1) false

/-! ### The sequencer -/

/-- spec/40_color_sequencer.md R112, R113 (a), (b): `WHEEL` of the latched phase in closed form over the naturals, with
no wrap, its channels adding up to 255; it writes no register (R110). That the value stands in `ret` is the model's choice
(log entry 7). -/
def Obligations.WheelResult : Prop :=
  ∀ s : State, s.cfg.wf = true → ∃ c : Color,
    exec .wheel s = .next { s with ret := .color c } ∧
    (s.phl.toNat ≤ 85 →
      c.r.toNat = 255 - 3 * s.phl.toNat ∧ c.g.toNat = 3 * s.phl.toNat ∧ c.b.toNat = 0) ∧
    (86 ≤ s.phl.toNat → s.phl.toNat ≤ 170 →
      c.r.toNat = 0 ∧ c.g.toNat = 510 - 3 * s.phl.toNat ∧ c.b.toNat = 3 * s.phl.toNat - 255) ∧
    (171 ≤ s.phl.toNat →
      c.r.toNat = 3 * s.phl.toNat - 510 ∧ c.g.toNat = 0 ∧ c.b.toNat = 765 - 3 * s.phl.toNat) ∧
    c.r.toNat + c.g.toNat + c.b.toNat = 255

/-- spec/40_color_sequencer.md R113 (d), (f): neighbouring phases differ by exactly 3 in two channels and by 0 in the
third; the two ends of the range meet; no other two phases share a colour. -/
def Obligations.WheelContinuous : Prop :=
  (∀ φ : Byte, φ ≠ 255#8 →
    ∃ dr dg db : Nat,
      Int.natAbs ((wheel (φ + 1)).r.toNat - (wheel φ).r.toNat : Int) = dr ∧
      Int.natAbs ((wheel (φ + 1)).g.toNat - (wheel φ).g.toNat : Int) = dg ∧
      Int.natAbs ((wheel (φ + 1)).b.toNat - (wheel φ).b.toNat : Int) = db ∧
      (dr, dg, db) ∈ [(3, 3, 0), (3, 0, 3), (0, 3, 3)]) ∧
  wheel 255#8 = wheel 0#8 ∧
  ∀ φ ψ : Byte, wheel φ = wheel ψ → φ = ψ ∨ (φ = 0#8 ∧ ψ = 255#8) ∨ (φ = 255#8 ∧ ψ = 0#8)

/-- spec/40_color_sequencer.md R114: `HSV` is the open conversion at the phase and the two fixed parameters; it writes
no register. The value itself is free (log entry 8); that it stands in `ret` is the model's choice (log entry 7). -/
def Obligations.HsvResult : Prop :=
  ∀ s : State, s.cfg.wf = true →
    exec .hsv s = .next { s with ret := .color (Config.hsv2rgb s.phl s.cfg.hsvSat s.cfg.hsvVal) }

/-- spec/40_color_sequencer.md R115: `scale8` is the exact product divided by 255, rounded toward zero. That
the value stands in `ret` is the model's choice (log entry 7). -/
def Obligations.ScaleResult : Prop :=
  ∀ (c sc : Byte) (s : State), s.cfg.wf = true → ∃ r : Byte,
    exec (.scale c sc) s = .next { s with ret := .channel r } ∧ r.toNat = c.toNat * sc.toNat / 255

/-- spec/40_color_sequencer.md R116 (a), (b), (c): bounded by both arguments, the identity at 255 and zero at 0,
monotone in both. -/
def Obligations.ScaleLaws : Prop :=
  ∀ c c' sc sc' : Byte,
    (scale8 c sc).toNat ≤ min c.toNat sc.toNat ∧
    scale8 c 255#8 = c ∧ scale8 c 0#8 = 0#8 ∧
    (c.toNat ≤ c'.toNat → (scale8 c sc).toNat ≤ (scale8 c' sc).toNat) ∧
    (sc.toNat ≤ sc'.toNat → (scale8 c sc).toNat ≤ (scale8 c sc').toNat)

/-- spec/30_encoding.md R86, R87, spec/20_memory.md R63: the word of a Color holds the scaled channels in the order of
`CHORDER`, the first in bits 23:16, the second in bits 15:8, the third in bits 7:0. -/
def Obligations.WordAssembly : Prop :=
  ∀ (o : ChOrder) (c : Color) (sc : Byte),
    ∃ x y z : Byte,
      (match o with
        | .rgb => (x, y, z) = (scale8 c.r sc, scale8 c.g sc, scale8 c.b sc)
        | .rbg => (x, y, z) = (scale8 c.r sc, scale8 c.b sc, scale8 c.g sc)
        | .grb => (x, y, z) = (scale8 c.g sc, scale8 c.r sc, scale8 c.b sc)
        | .gbr => (x, y, z) = (scale8 c.g sc, scale8 c.b sc, scale8 c.r sc)
        | .brg => (x, y, z) = (scale8 c.b sc, scale8 c.r sc, scale8 c.g sc)
        | .bgr => (x, y, z) = (scale8 c.b sc, scale8 c.g sc, scale8 c.r sc)) ∧
      (wordOf o c sc).toNat = x.toNat * 2 ^ 16 + y.toNat * 2 ^ 8 + z.toNat

/-! ### The Timer-Paced strategy -/

/-- spec/41_bit_serializer.md R138: `T_START`. -/
def Obligations.TStartResult : Prop :=
  ∀ s : State, s.cfg.wf = true →
    (s.pins.chanAvail = true →
      exec .tStart s = .next { s with
        pix := 0
        shr := wordOf s.cfg.chorder s.col s.cfg.scale
        bitcnt := 24
        dout := true
        crit := true
        tstart := s.tcnt + 1
        txs := 0b01#2 }) ∧
    (s.pins.chanAvail = false → exec .tStart s = .next { s with haltCause := 0b10#2, cst := 0b111#3 })

/-- spec/41_bit_serializer.md R139, R142: `T_HIGH`; the high time is that of bit 23 of `SHR`, the elapsed time is
`TCNT -32 TSTART`. -/
def Obligations.THighResult : Prop :=
  ∀ s : State, s.cfg.wf = true →
    ((if s.shr.getLsbD 23 then s.cfg.t1h else s.cfg.t0h) ≤ (s.tcnt - s.tstart).toNat + 1 →
      exec .tHigh s = .next { s with dout := false, txs := 0b10#2 }) ∧
    ((s.tcnt - s.tstart).toNat + 1 < (if s.shr.getLsbD 23 then s.cfg.t1h else s.cfg.t0h) →
      exec .tHigh s = .next s)

/-- spec/41_bit_serializer.md R140: `T_LOW`: nothing before the symbol's last tick; then the next bit of the word, the
next pixel's word, or the latch. -/
def Obligations.TLowResult : Prop :=
  ∀ s : State, s.cfg.wf = true →
    ((s.tcnt - s.tstart).toNat + 1 < s.cfg.total → exec .tLow s = .next s) ∧
    (s.cfg.total ≤ (s.tcnt - s.tstart).toNat + 1 →
      (1 < s.bitcnt.toNat →
        exec .tLow s = .next { s with
          shr := s.shr <<< 1, bitcnt := s.bitcnt - 1, dout := true, tstart := s.tcnt + 1, txs := 0b01#2 }) ∧
      (s.bitcnt.toNat ≤ 1 → s.pix.toNat + 1 < s.cfg.npix →
        exec .tLow s = .next { s with
          pix := s.pix + 1
          shr := wordOf s.cfg.chorder s.col s.cfg.scale
          bitcnt := 24
          dout := true
          tstart := s.tcnt + 1
          txs := 0b01#2 }) ∧
      (s.bitcnt.toNat ≤ 1 → s.cfg.npix ≤ s.pix.toNat + 1 →
        exec .tLow s = .next { s with crit := false, tstart := s.tcnt + 1, txs := 0b11#2 }))

/-- spec/41_bit_serializer.md R141: `T_LATCH`. -/
def Obligations.TLatchResult : Prop :=
  ∀ s : State, s.cfg.wf = true →
    (s.cfg.treset ≤ (s.tcnt - s.tstart).toNat + 1 →
      exec .tLatch s = .next { s with txs := 0b00#2, cst := 0b100#3 }) ∧
    ((s.tcnt - s.tstart).toNat + 1 < s.cfg.treset → exec .tLatch s = .next s)

/-- spec/10_state.md R30: every step counts `TCNT`, in every state, in both strategies, reset included. -/
def Obligations.TcntCounts : Prop :=
  ∀ s t : State, step s = .next t → t.tcnt = s.tcnt + 1

/-- spec/10_state.md R30, spec/41_bit_serializer.md R142: only differences of `TCNT` are used. Moving `TCNT` and
`TSTART` by one amount moves the next state's by that amount and changes nothing else. -/
def Obligations.ClockShift : Prop :=
  ∀ (s t : State) (d : Word32), s.pins.rst = false → step s = .next t →
    step { s with tcnt := s.tcnt + d, tstart := s.tstart + d } =
      .next { t with tcnt := t.tcnt + d, tstart := t.tstart + d }

/-- spec/42_animation_loop.md R181, spec/41_bit_serializer.md R152, spec/92_eei_decisions.md D24: `init_ok` is read only in
`INIT`, and in `TIMER` `chan_avail` only in `T_START`. Anywhere else a change of the input changes nothing but the port
itself, which holds when no sample is to come (log entry 5). -/
def Obligations.InputsReadOnlyWhere : Prop :=
  (∀ (s t : State) (b : Bool), s.cst ≠ cstInit → step s = .next t →
    ∃ t', step { s with pins := { s.pins with initOk := b } } = .next t' ∧ { t' with pins := t.pins } = t) ∧
  (∀ (s t : State) (b : Bool), s.cfg.strategy = .timer → ¬ (s.cst = cstTx ∧ s.txs = txsStart) → step s = .next t →
    ∃ t', step { s with pins := { s.pins with chanAvail := b } } = .next t' ∧ { t' with pins := t.pins } = t)

/-- spec/41_bit_serializer.md R139, R140, R132, R133 (refinement R155 for one symbol): from the first tick of a bit
symbol, `TOTAL` steps put exactly the waveform of bit 23 of `SHR` on the wire, and then the next bit of the word is in
its first tick, the next pixel's word is, or the latch begins. -/
def Obligations.TimerSymbolRun : Prop :=
  ∀ s : State, s.cfg.wf = true → s.cfg.strategy = .timer → s.haltCause ≠ causeReserved → s.cst = cstTx →
    s.txs = txsTHigh → s.tstart = s.tcnt → s.dout = true → s.NoResetFor s.cfg.total →
    ∃ t, Host.Core.run core s.cfg.total s = .next t ∧
      t.wire = s.wire ++ s.cfg.bitWave (s.shr.getLsbD 23) ∧
      t.cst = cstTx ∧ t.tstart = t.tcnt ∧ t.tcnt = s.tcnt + BitVec.ofNat 32 s.cfg.total ∧ t.col = s.col ∧
      t.phase = s.phase ∧
      (1 < s.bitcnt.toNat →
        t.txs = txsTHigh ∧ t.dout = true ∧ t.shr = s.shr <<< 1 ∧ t.bitcnt = s.bitcnt - 1 ∧ t.pix = s.pix ∧
        t.crit = s.crit) ∧
      (s.bitcnt.toNat ≤ 1 → s.pix.toNat + 1 < s.cfg.npix →
        t.txs = txsTHigh ∧ t.dout = true ∧ t.shr = wordOf s.cfg.chorder s.col s.cfg.scale ∧ t.bitcnt = 24 ∧
        t.pix = s.pix + 1 ∧ t.crit = s.crit) ∧
      (s.bitcnt.toNat ≤ 1 → s.cfg.npix ≤ s.pix.toNat + 1 →
        t.txs = txsTLatch ∧ t.dout = false ∧ t.crit = false)

/-! ### The State-Machine strategy -/

/-- spec/41_bit_serializer.md R144: `S_START`. -/
def Obligations.SStartResult : Prop :=
  ∀ s : State, s.cfg.wf = true →
    (s.pins.chanAvail = true → exec .sStart s = .next { s with pix := 0, blk := 0, txs := 0b01#2 }) ∧
    (s.pins.chanAvail = false → exec .sStart s = .next { s with haltCause := 0b10#2, cst := 0b111#3 })

/-- spec/41_bit_serializer.md R145: `S_PUSH`, with room and with a full queue. -/
def Obligations.SPushResult : Prop :=
  ∀ s : State, s.cfg.wf = true →
    (s.fifo.length < s.cfg.qdepth →
      (s.pix.toNat + 1 < s.cfg.npix →
        exec .sPush s = .next { s with
          fifo := s.fifo ++ [wordOf s.cfg.chorder s.col s.cfg.scale], blk := 0, pix := s.pix + 1 }) ∧
      (s.cfg.npix ≤ s.pix.toNat + 1 →
        exec .sPush s = .next { s with
          fifo := s.fifo ++ [wordOf s.cfg.chorder s.col s.cfg.scale], blk := 0, txs := 0b10#2 })) ∧
    (s.cfg.qdepth ≤ s.fifo.length →
      (s.cfg.blockBound ≤ s.blk.toNat →
        exec .sPush s = .next { s with haltCause := 0b10#2, cst := 0b111#3 }) ∧
      (s.blk.toNat < s.cfg.blockBound → exec .sPush s = .next { s with blk := s.blk + 1 }))

/-- spec/41_bit_serializer.md R146, spec/60_exceptions.md R207: `S_DRAIN`; the success test comes first. -/
def Obligations.SDrainResult : Prop :=
  ∀ s : State, s.cfg.wf = true →
    (s.fifo = [] ∧ s.est = 0b00#2 → exec .sDrain s = .next { s with lcnt := 0, txs := 0b11#2 }) ∧
    (¬ (s.fifo = [] ∧ s.est = 0b00#2) →
      (s.pins.chanAvail = true → exec .sDrain s = .next { s with blk := 0 }) ∧
      (s.pins.chanAvail = false → s.cfg.blockBound ≤ s.blk.toNat →
        exec .sDrain s = .next { s with haltCause := 0b10#2, cst := 0b111#3 }) ∧
      (s.pins.chanAvail = false → s.blk.toNat < s.cfg.blockBound →
        exec .sDrain s = .next { s with blk := s.blk + 1 }))

/-- spec/41_bit_serializer.md R147: `S_LATCH`. -/
def Obligations.SLatchResult : Prop :=
  ∀ s : State, s.cfg.wf = true →
    (s.cfg.treset ≤ s.lcnt.toNat + 1 → exec .sLatch s = .next { s with txs := 0b00#2, cst := 0b100#3 }) ∧
    (s.lcnt.toNat + 1 < s.cfg.treset → exec .sLatch s = .next { s with lcnt := s.lcnt + 1 })

/-- spec/41_bit_serializer.md R148: `E_IDLE` of an enabled engine; of a disabled one (R151) it changes nothing. -/
def Obligations.EIdleResult : Prop :=
  ∀ s : State, s.cfg.wf = true →
    (s.pins.chanAvail = false → exec .eIdle s = .next s) ∧
    (s.pins.chanAvail = true →
      (s.fifo = [] → exec .eIdle s = .next s) ∧
      (∀ w rest, s.fifo = w :: rest →
        exec .eIdle s = .next { s with
          fifo := rest, eshr := w, ebit := 24, esymt := 0, dout := true, est := 0b01#2 }))

/-- spec/41_bit_serializer.md R149: `E_HIGH` of an enabled engine; of a disabled one (R151) it changes nothing. -/
def Obligations.EHighResult : Prop :=
  ∀ s : State, s.cfg.wf = true →
    (s.pins.chanAvail = false → exec .eHigh s = .next s) ∧
    (s.pins.chanAvail = true →
      ((if s.eshr.getLsbD 23 then s.cfg.t1h else s.cfg.t0h) ≤ s.esymt.toNat + 1 →
        exec .eHigh s = .next { s with dout := false, est := 0b10#2, esymt := s.esymt + 1 }) ∧
      (s.esymt.toNat + 1 < (if s.eshr.getLsbD 23 then s.cfg.t1h else s.cfg.t0h) →
        exec .eHigh s = .next { s with esymt := s.esymt + 1 }))

/-- spec/41_bit_serializer.md R150: `E_LOW` of an enabled engine; of a disabled one (R151) it changes nothing. -/
def Obligations.ELowResult : Prop :=
  ∀ s : State, s.cfg.wf = true →
    (s.pins.chanAvail = false → exec .eLow s = .next s) ∧
    (s.pins.chanAvail = true →
      (s.esymt.toNat + 1 < s.cfg.total → exec .eLow s = .next { s with esymt := s.esymt + 1 }) ∧
      (s.cfg.total ≤ s.esymt.toNat + 1 →
        (1 < s.ebit.toNat →
          exec .eLow s = .next { s with
            eshr := s.eshr <<< 1, ebit := s.ebit - 1, esymt := 0, dout := true, est := 0b01#2 }) ∧
        (s.ebit.toNat ≤ 1 → s.fifo = [] → exec .eLow s = .next { s with est := 0b00#2 }) ∧
        (∀ w rest, s.ebit.toNat ≤ 1 → s.fifo = w :: rest →
          exec .eLow s = .next { s with
            fifo := rest, eshr := w, ebit := 24, esymt := 0, dout := true, est := 0b01#2 })))

/-- spec/20_memory.md R74, R75: the queue after a tick of `SM` is the queue without its head if the engine popped,
followed by the word the controller pushed, both tests on the occupancy at the start of the tick. -/
def Obligations.QueueSameTick : Prop :=
  ∀ s t : State, s.cfg.strategy = .sm → s.pins.rst = false → step s = .next t →
    t.fifo =
      (if s.pins.chanAvail = true ∧
          (s.est = estIdle ∨ (s.est = estLow ∧ s.cfg.total ≤ s.esymt.toNat + 1 ∧ s.ebit.toNat ≤ 1))
        then s.fifo.tail else s.fifo) ++
      (if s.cst = cstTx ∧ s.txs = txsSPush ∧ s.fifo.length < s.cfg.qdepth
        then [wordOf s.cfg.chorder s.col s.cfg.scale] else [])

/-- spec/41_bit_serializer.md R151: the engine's part of a tick does not depend on the controller: two states that agree
on the configuration, the queue, the line, the engine's registers and `chan_avail` agree on them after a step, but for
the queue's tail. -/
def Obligations.EngineIgnoresController : Prop :=
  ∀ s s' t t' : State, s.cfg.strategy = .sm → s.pins.rst = false → s'.pins.rst = false →
    s'.cfg = s.cfg → s'.fifo = s.fifo → s'.dout = s.dout → s'.est = s.est → s'.eshr = s.eshr →
    s'.ebit = s.ebit → s'.esymt = s.esymt → s'.pins.chanAvail = s.pins.chanAvail →
    step s = .next t → step s' = .next t' →
    t'.dout = t.dout ∧ t'.est = t.est ∧ t'.eshr = t.eshr ∧ t'.ebit = t.ebit ∧ t'.esymt = t.esymt

/-- spec/41_bit_serializer.md R149, R150 (refinement R155 for one symbol): from the first tick of an engine symbol,
`TOTAL` steps with the channel available put exactly the waveform of bit 23 of `ESHR` on the wire, whatever the
controller does meanwhile, and while bits of the word are left the next one is in its first tick. -/
def Obligations.EngineSymbolRun : Prop :=
  ∀ s : State, s.cfg.wf = true → s.cfg.strategy = .sm → s.CodesLegal →
    s.est = estHigh → s.esymt = 0 → s.dout = true → s.NoResetFor s.cfg.total → s.ChannelFor s.cfg.total →
    ∃ t, Host.Core.run core s.cfg.total s = .next t ∧
      t.wire = s.wire ++ s.cfg.bitWave (s.eshr.getLsbD 23) ∧
      (1 < s.ebit.toNat →
        t.est = estHigh ∧ t.esymt = 0 ∧ t.dout = true ∧ t.eshr = s.eshr <<< 1 ∧ t.ebit = s.ebit - 1)

/-! ### Wire symbols and the transmit -/

/-- spec/41_bit_serializer.md R132, R133, R134: `BIT0` takes `TOTAL` ticks, high in the first `T0H` and low in the rest;
`BIT1` the same with `T1H`; `LATCH` holds the line low for `TRESET` ticks. That a symbol executed alone reads no input
that `LATCH` alone ends after `TRESET` ticks, and that the wire shows the waveform's first level whatever `DOUT` held, are
the model's choices (log entries 10, 11 and 21). -/
def Obligations.SymbolResults : Prop :=
  ∀ s : State, s.cfg.wf = true → s.CodesRun →
    (∃ t, exec .bit0 s = .next t ∧
      t.wire.length = s.wire.length + s.cfg.total ∧
      (∀ k, k < s.wire.length → t.wire[k]? = s.wire[k]?) ∧
      (∀ j, j < s.cfg.total → t.wire[s.wire.length + j]? = some (decide (j < s.cfg.t0h))) ∧
      t = { s with
        wire := t.wire
        dout := false
        tcnt := s.tcnt + BitVec.ofNat 32 s.cfg.total
        pins := s.pinsAt s.cfg.total
        script := s.script.drop s.cfg.total }) ∧
    (∃ t, exec .bit1 s = .next t ∧
      t.wire.length = s.wire.length + s.cfg.total ∧
      (∀ k, k < s.wire.length → t.wire[k]? = s.wire[k]?) ∧
      (∀ j, j < s.cfg.total → t.wire[s.wire.length + j]? = some (decide (j < s.cfg.t1h))) ∧
      t = { s with
        wire := t.wire
        dout := false
        tcnt := s.tcnt + BitVec.ofNat 32 s.cfg.total
        pins := s.pinsAt s.cfg.total
        script := s.script.drop s.cfg.total }) ∧
    exec .latch s = .next { s with
      wire := s.wire ++ List.replicate s.cfg.treset false
      dout := false
      tcnt := s.tcnt + BitVec.ofNat 32 s.cfg.treset
      pins := s.pinsAt s.cfg.treset
      script := s.script.drop s.cfg.treset }

/-- spec/41_bit_serializer.md R135, spec/20_memory.md R62: `PIXEL` is the 24 bit symbols of the word, bit 23 first, each
beginning on the tick after the previous one ends: tick `k·TOTAL + j` is tick `j` of bit `23 − k`. That a pixel executed
alone reads no input, and that the wire shows the first level whatever `DOUT` held, are the model's choices (log entries
10 and 21). -/
def Obligations.PixelResult : Prop :=
  ∀ (w : Word24) (s : State), s.cfg.wf = true → s.CodesRun →
    ∃ t, exec (.pixel w) s = .next t ∧
      t.wire.length = s.wire.length + 24 * s.cfg.total ∧
      (∀ k, k < s.wire.length → t.wire[k]? = s.wire[k]?) ∧
      (∀ k j, k < 24 → j < s.cfg.total →
        t.wire[s.wire.length + (k * s.cfg.total + j)]? =
          some (decide (j < if w.getLsbD (23 - k) then s.cfg.t1h else s.cfg.t0h))) ∧
      t = { s with
        wire := t.wire
        dout := false
        tcnt := s.tcnt + BitVec.ofNat 32 (24 * s.cfg.total)
        pins := s.pinsAt (24 * s.cfg.total)
        script := s.script.drop (24 * s.cfg.total) }

/-- spec/41_bit_serializer.md R130, R131, R154 (`TIMER`): with the channel available at its start and no reset during
it, `TRANSMIT` returns success after `1 + 24·N·TOTAL + TRESET` ticks; after the start tick the wire carries the pixels
of the sequence's words without a gap and then the latch; the loop's, the queue's and the engine's registers keep their
values. That `exec` runs the whole call, from whatever `CST` (log entry 23), and where it leaves the result, are the model's
choices (log entries 7, 9, 12). -/
def Obligations.TransmitTimer : Prop :=
  ∀ (colors : List Color) (sc : Byte) (s : State), s.cfg.wf = true → (Instr.transmit colors sc).wf = true →
    s.CodesRun → s.cfg.strategy = .timer → s.pins.chanAvail = true →
    s.NoResetFor (1 + 24 * colors.length * s.cfg.total + s.cfg.treset) →
    ∃ t, exec (.transmit colors sc) s = .next t ∧
      t.ret = .success ∧ t.cst = cstAdv ∧ t.txs = txsStart ∧ t.dout = false ∧ t.crit = false ∧
      t.wire = s.wire ++ s.dout :: s.cfg.frameWave (colors.map fun c => wordOf s.cfg.chorder c sc) ∧
      t.tcnt = s.tcnt + BitVec.ofNat 32 (1 + 24 * colors.length * s.cfg.total + s.cfg.treset) ∧
      t.cfg = s.cfg ∧ t.phase = s.phase ∧ t.phl = s.phl ∧ t.col = s.col ∧ t.ftmr = s.ftmr ∧
      t.haltCause = s.haltCause ∧ t.lcnt = s.lcnt ∧ t.blk = s.blk ∧ t.fifo = s.fifo ∧ t.est = s.est ∧
      t.eshr = s.eshr ∧ t.ebit = s.ebit ∧ t.esymt = s.esymt

/-- spec/41_bit_serializer.md R130, R131, R153, R154 (`SM`): with the engine quiet, the line low, the channel available
and no reset throughout, and `BLOCK_BOUND ≥ 24·TOTAL`, `TRANSMIT` returns success after `4 + 24·N·TOTAL + TRESET` ticks;
after three low ticks the wire carries the pixels without a gap, one low tick and the latch. That `exec` runs the whole
call, from whatever `CST` (log entry 23), and where it leaves the result, are the model's choices (log entries 7, 9, 12). -/
def Obligations.TransmitSm : Prop :=
  ∀ (colors : List Color) (sc : Byte) (s : State), s.cfg.wf = true → (Instr.transmit colors sc).wf = true →
    s.CodesRun → s.cfg.strategy = .sm → s.EngineQuiet → s.dout = false → 24 * s.cfg.total ≤ s.cfg.blockBound →
    s.NoResetFor (4 + 24 * colors.length * s.cfg.total + s.cfg.treset) →
    s.ChannelFor (4 + 24 * colors.length * s.cfg.total + s.cfg.treset) →
    ∃ t, exec (.transmit colors sc) s = .next t ∧
      t.ret = .success ∧ t.cst = cstAdv ∧ t.txs = txsStart ∧ t.dout = false ∧ t.EngineQuiet ∧
      t.wire = s.wire ++ [false, false, false] ++
        (colors.map fun c => wordOf s.cfg.chorder c sc).flatMap s.cfg.pixelWave ++ [false] ++ s.cfg.latchWave ∧
      t.tcnt = s.tcnt + BitVec.ofNat 32 (4 + 24 * colors.length * s.cfg.total + s.cfg.treset) ∧
      t.cfg = s.cfg ∧ t.phase = s.phase ∧ t.phl = s.phl ∧ t.col = s.col ∧ t.ftmr = s.ftmr ∧
      t.haltCause = s.haltCause ∧ t.shr = s.shr ∧ t.bitcnt = s.bitcnt ∧ t.tstart = s.tstart ∧ t.crit = s.crit

/-- `TRANSMIT` with the channel unavailable at its start returns failure and halts the block in one tick, in both
strategies, nothing put on the wire but that tick's level, and no register of the loop changed
(spec/41_bit_serializer.md R130, R152, spec/60_exceptions.md R202, R208); of no Color or of more than 12 it is refused
(R130 `N ≥ 1`, spec/00_scope.md R7); a reset in its first tick leaves the reset state (spec/70_reset_and_hazards.md R230),
and without it from the engine's reserved code it faults (spec/30_encoding.md R95; the other codes are
in `ReservedCodesFault`). The call from whatever `CST`, the refusal, the fault and the field `ret` are the model's choices
(log entries 7, 13, 16, 23). -/
def Obligations.TransmitFails : Prop :=
  ∀ (colors : List Color) (sc : Byte) (s : State), s.cfg.wf = true →
    (1 ≤ colors.length → colors.length ≤ 12 → s.CodesRun →
      s.pins.chanAvail = false → s.pins.rst = false →
      exec (.transmit colors sc) s = .next { s with
        cst := cstHalt
        txs := txsStart
        haltCause := causeTxFail
        tcnt := s.tcnt + 1
        pins := s.pinsAt 1
        script := s.script.drop 1
        wire := s.wire ++ [s.dout]
        ret := .failure }) ∧
    (colors.length = 0 ∨ 12 < colors.length → exec (.transmit colors sc) s = .refused .illFormedOperands) ∧
    (1 ≤ colors.length → colors.length ≤ 12 → s.pins.rst = false → s.haltCause ≠ causeReserved → s.cst ≠ cstReserved →
      s.cfg.strategy = .sm → s.est = estReserved →
      exec (.transmit colors sc) s = .fault .reservedEst) ∧
    (1 ≤ colors.length → colors.length ≤ 12 → s.pins.rst = true →
      exec (.transmit colors sc) s = .next { s.resetTick with ret := .none })

/-! ### The loop over time -/

/-- spec/42_animation_loop.md R186: entered with `FTMR = n`, the wait spends exactly `n` ticks in `WAIT` and the line
stays low, in both strategies, the engine quiet. -/
def Obligations.WaitLasts : Prop :=
  ∀ s : State, s.cfg.wf = true → s.CodesLegal → s.cst = cstWait → 1 ≤ s.ftmr.toNat → s.EngineQuiet → s.dout = false →
    s.NoResetFor s.ftmr.toNat →
    (∀ k, k < s.ftmr.toNat → ∃ u, Host.Core.run core k s = .next u ∧ u.cst = cstWait) ∧
    ∃ t, Host.Core.run core s.ftmr.toNat s = .next t ∧ t.cst = cstRead ∧ t.dout = false ∧ t.phase = s.phase ∧
      t.wire = s.wire ++ List.replicate s.ftmr.toNat false

/-- spec/70_reset_and_hazards.md R232: from reset, with `init_ok = 1` in tick 0, no further reset and the channel
available, ticks 1, 2, 3 are `READ`, `SEQ`, `TX`, and the first rising edge is at tick 4 (`TIMER`) or tick 6 (`SM`). -/
def Obligations.FirstTicks : Prop :=
  ∀ (cfg : Config) (tcnt : Word32) (pins : Pins) (script : List Pins) (s : State),
    s = { State.resetWith cfg tcnt pins with script := script } → cfg.wf = true → pins.initOk = true →
    s.NoResetFor 6 → s.ChannelFor 6 →
    (∃ t, Host.Core.run core 1 s = .next t ∧ t.cst = cstRead) ∧
    (∃ t, Host.Core.run core 2 s = .next t ∧ t.cst = cstSeq ∧ t.phl = cfg.phaseInit) ∧
    (∃ t, Host.Core.run core 3 s = .next t ∧ t.cst = cstTx ∧ t.txs = txsStart ∧ t.col = sequencer cfg cfg.phaseInit) ∧
    (cfg.strategy = .timer →
      ∃ t, Host.Core.run core 4 s = .next t ∧ t.dout = true ∧ t.wire = List.replicate 4 false) ∧
    (cfg.strategy = .sm →
      ∃ t, Host.Core.run core 6 s = .next t ∧ t.dout = true ∧ t.wire = List.replicate 6 false)

/-- spec/42_animation_loop.md R191, R190, R188, spec/41_bit_serializer.md R155: from `READ` with the line low, the channel
available and no reset, one period leads to `READ` again with the phase and the symbols on the wire that the frame-level
semantics gives, the line low before and after. The period is `24·NPIX·TOTAL + TRESET + FRAME_TICKS + 4` steps in
`TIMER`; in `SM`, with the engine quiet and `BLOCK_BOUND ≥ 24·TOTAL`, it is three steps longer and leaves the engine
quiet. -/
def Obligations.FramePeriod : Prop :=
  ∀ s : State, s.cfg.wf = true → s.CodesLegal → s.cst = cstRead → s.dout = false →
    (s.cfg.strategy = .timer →
      s.NoResetFor (24 * s.cfg.npix * s.cfg.total + s.cfg.treset + s.cfg.frameTicks + 4) →
      s.ChannelFor (24 * s.cfg.npix * s.cfg.total + s.cfg.treset + s.cfg.frameTicks + 4) →
      ∃ t f, FrameState.frame s.cfg .sent ⟨s.phase, false, causeNone, []⟩ = .next f ∧
        Host.Core.run core (24 * s.cfg.npix * s.cfg.total + s.cfg.treset + s.cfg.frameTicks + 4) s = .next t ∧
        t.cst = cstRead ∧ t.dout = false ∧ t.phase = f.phase ∧
        t.wire = s.wire ++ List.replicate 3 false ++ f.trace.flatMap (Symbol.wave s.cfg) ++
          List.replicate (s.cfg.frameTicks + 1) false) ∧
    (s.cfg.strategy = .sm → s.EngineQuiet → 24 * s.cfg.total ≤ s.cfg.blockBound →
      s.NoResetFor (24 * s.cfg.npix * s.cfg.total + s.cfg.treset + s.cfg.frameTicks + 7) →
      s.ChannelFor (24 * s.cfg.npix * s.cfg.total + s.cfg.treset + s.cfg.frameTicks + 7) →
      ∃ t f, FrameState.frame s.cfg .sent ⟨s.phase, false, causeNone, []⟩ = .next f ∧
        Host.Core.run core (24 * s.cfg.npix * s.cfg.total + s.cfg.treset + s.cfg.frameTicks + 7) s = .next t ∧
        t.cst = cstRead ∧ t.dout = false ∧ t.EngineQuiet ∧ t.phase = f.phase ∧
        t.wire = s.wire ++ List.replicate 5 false ++ f.trace.flatMap (Symbol.wave s.cfg) ++
          List.replicate (s.cfg.frameTicks + 2) false)

/-- spec/42_animation_loop.md R190, spec/40_color_sequencer.md R113 (g): at frame level, after `k` frames from reset the
block runs, the phase is `PHASE_INIT + k` modulo 256, the wire trace is that of the frames of the phases gone by, and 256
frames later the phase is the same; a frame whose transmit then fails halts the block with `TX_FAIL` at that phase, adds a
prefix of its trace, in `TIMER` none, and no later frame changes anything. -/
def Obligations.FramePhases : Prop :=
  ∀ (cfg : Config) (k : Nat), cfg.wf = true →
    ∃ f g,
      FrameState.run cfg (List.replicate k .sent) (FrameState.reset cfg true) = .next f ∧
      f.phase.toNat = (cfg.phaseInit.toNat + k) % 256 ∧ f.halted = false ∧
      f.trace = (List.range k).flatMap (fun j => frameTrace cfg (cfg.phaseInit + BitVec.ofNat 8 j)) ∧
      FrameState.run cfg (List.replicate (k + 256) .sent) (FrameState.reset cfg true) = .next g ∧
      g.phase = f.phase ∧
      ∀ n : Nat, ∃ h p, FrameState.frame cfg (.failed n) f = .next h ∧
        h.phase = f.phase ∧ h.halted = true ∧ h.cause = causeTxFail ∧
        h.trace = f.trace ++ p ∧ p <+: frameTrace cfg f.phase ∧ (cfg.strategy = .timer → p = []) ∧
        ∀ e : FrameEvent, FrameState.frame cfg e h = .next h

/-! ### Invariants -/

/-- Every invariant below holds right after reset, for every well-formed configuration (spec/10_state.md R44). For the
registers R44 leaves unspecified (`PIX`, `FTMR`, `BITCNT`, `TSTART`, `LCNT`, `BLK`, `EBIT`, `ESYMT`) the counter ranges
hold by the zeros the model chose (log entry 3). -/
def Obligations.InvariantsAtReset : Prop :=
  ∀ (cfg : Config) (tcnt : Word32) (pins : Pins), cfg.wf = true →
    (State.resetWith cfg tcnt pins).CodesLegal ∧ (State.resetWith cfg tcnt pins).CauseMatches ∧
    (State.resetWith cfg tcnt pins).QueueBounded ∧ (State.resetWith cfg tcnt pins).LineTimer ∧
    (State.resetWith cfg tcnt pins).LineSm ∧ (State.resetWith cfg tcnt pins).QuietOutsideTx ∧
    (State.resetWith cfg tcnt pins).CountersInRange ∧ (State.resetWith cfg tcnt pins).PixInFrame ∧
    (State.resetWith cfg tcnt pins).PacedInTime

/-- spec/30_encoding.md R95: no transition produces a reserved code; spec/10_state.md R35, spec/60_exceptions.md R204: a
cause is recorded exactly when the block is halted. -/
def Obligations.CodesAndCauseKept : Prop :=
  ∀ s t : State, step s = .next t → (s.CodesLegal → t.CodesLegal) ∧ (s.CauseMatches → t.CauseMatches)

/-- spec/20_memory.md R75: the queue never overflows. -/
def Obligations.QueueKept : Prop :=
  ∀ s t : State, s.QueueBounded → step s = .next t → t.QueueBounded

/-- spec/41_bit_serializer.md R143, spec/10_state.md R33, R34: in `TIMER`, `DOUT` is 1 exactly in `T_HIGH` and `CRIT`
exactly in `T_HIGH` and `T_LOW`; in `SM`, `DOUT` is 1 exactly in `E_HIGH` and `CRIT` never. -/
def Obligations.LineKept : Prop :=
  ∀ s t : State, s.LineTimer ∧ s.LineSm → step s = .next t → t.LineTimer ∧ t.LineSm

/-- spec/42_animation_loop.md R188, spec/41_bit_serializer.md R147: in `SM`, outside `TX` without a transmission failure,
at a transmit's start and in its latch, the queue is empty and the engine idle. -/
def Obligations.QuietKept : Prop :=
  ∀ s t : State, s.CauseMatches ∧ s.QuietOutsideTx → step s = .next t → t.QuietOutsideTx

/-- spec/70_reset_and_hazards.md R240, spec/10_state.md R26, spec/41_bit_serializer.md R142: no counter leaves its range,
the pixel index stays inside the frame, and the elapsed time stays inside the interval being timed. In a step with `rst = 1`
the ranges of `FTMR`, `LCNT`, `ESYMT`, `BLK`, `BITCNT`, `EBIT` and `PIX`, which spec/10_state.md R44 leaves unspecified, hold
by the zeros the model chose (log entry 3). -/
def Obligations.CountersKept : Prop :=
  ∀ s t : State, step s = .next t →
    (s.CountersInRange ∧ s.PixInFrame → t.CountersInRange ∧ t.PixInFrame) ∧ (s.PacedInTime → t.PacedInTime)
end

