-- ==== Sys2Proof/Laws/State.lean ====
section
/-!
SUPPORT. One lemma per field per update, true by `rfl`, so that no proof unfolds a record update.
-/
namespace Sys2Proof.Machine

variable (s : State)

/-! ### `driveLine` -/
@[simp] theorem State.driveLine_cfg (level : Bool) : (s.driveLine level).cfg = s.cfg := rfl
@[simp] theorem State.driveLine_phase (level : Bool) : (s.driveLine level).phase = s.phase := rfl
@[simp] theorem State.driveLine_phl (level : Bool) : (s.driveLine level).phl = s.phl := rfl
@[simp] theorem State.driveLine_col (level : Bool) : (s.driveLine level).col = s.col := rfl
@[simp] theorem State.driveLine_cst (level : Bool) : (s.driveLine level).cst = s.cst := rfl
@[simp] theorem State.driveLine_txs (level : Bool) : (s.driveLine level).txs = s.txs := rfl
@[simp] theorem State.driveLine_pix (level : Bool) : (s.driveLine level).pix = s.pix := rfl
@[simp] theorem State.driveLine_ftmr (level : Bool) : (s.driveLine level).ftmr = s.ftmr := rfl
@[simp] theorem State.driveLine_shr (level : Bool) : (s.driveLine level).shr = s.shr := rfl
@[simp] theorem State.driveLine_bitcnt (level : Bool) : (s.driveLine level).bitcnt = s.bitcnt := rfl
@[simp] theorem State.driveLine_tstart (level : Bool) : (s.driveLine level).tstart = s.tstart := rfl
@[simp] theorem State.driveLine_tcnt (level : Bool) : (s.driveLine level).tcnt = s.tcnt := rfl
@[simp] theorem State.driveLine_lcnt (level : Bool) : (s.driveLine level).lcnt = s.lcnt := rfl
@[simp] theorem State.driveLine_blk (level : Bool) : (s.driveLine level).blk = s.blk := rfl
@[simp] theorem State.driveLine_dout (level : Bool) : (s.driveLine level).dout = level := rfl
@[simp] theorem State.driveLine_crit (level : Bool) : (s.driveLine level).crit = s.crit := rfl
@[simp] theorem State.driveLine_haltCause (level : Bool) : (s.driveLine level).haltCause = s.haltCause := rfl
@[simp] theorem State.driveLine_fifo (level : Bool) : (s.driveLine level).fifo = s.fifo := rfl
@[simp] theorem State.driveLine_est (level : Bool) : (s.driveLine level).est = s.est := rfl
@[simp] theorem State.driveLine_eshr (level : Bool) : (s.driveLine level).eshr = s.eshr := rfl
@[simp] theorem State.driveLine_ebit (level : Bool) : (s.driveLine level).ebit = s.ebit := rfl
@[simp] theorem State.driveLine_esymt (level : Bool) : (s.driveLine level).esymt = s.esymt := rfl
@[simp] theorem State.driveLine_pins (level : Bool) : (s.driveLine level).pins = s.pins := rfl
@[simp] theorem State.driveLine_script (level : Bool) : (s.driveLine level).script = s.script := rfl
@[simp] theorem State.driveLine_wire (level : Bool) : (s.driveLine level).wire = s.wire := rfl
@[simp] theorem State.driveLine_ret (level : Bool) : (s.driveLine level).ret = s.ret := rfl

/-! ### `setCrit` -/
@[simp] theorem State.setCrit_cfg (b : Bool) : (s.setCrit b).cfg = s.cfg := rfl
@[simp] theorem State.setCrit_phase (b : Bool) : (s.setCrit b).phase = s.phase := rfl
@[simp] theorem State.setCrit_phl (b : Bool) : (s.setCrit b).phl = s.phl := rfl
@[simp] theorem State.setCrit_col (b : Bool) : (s.setCrit b).col = s.col := rfl
@[simp] theorem State.setCrit_cst (b : Bool) : (s.setCrit b).cst = s.cst := rfl
@[simp] theorem State.setCrit_txs (b : Bool) : (s.setCrit b).txs = s.txs := rfl
@[simp] theorem State.setCrit_pix (b : Bool) : (s.setCrit b).pix = s.pix := rfl
@[simp] theorem State.setCrit_ftmr (b : Bool) : (s.setCrit b).ftmr = s.ftmr := rfl
@[simp] theorem State.setCrit_shr (b : Bool) : (s.setCrit b).shr = s.shr := rfl
@[simp] theorem State.setCrit_bitcnt (b : Bool) : (s.setCrit b).bitcnt = s.bitcnt := rfl
@[simp] theorem State.setCrit_tstart (b : Bool) : (s.setCrit b).tstart = s.tstart := rfl
@[simp] theorem State.setCrit_tcnt (b : Bool) : (s.setCrit b).tcnt = s.tcnt := rfl
@[simp] theorem State.setCrit_lcnt (b : Bool) : (s.setCrit b).lcnt = s.lcnt := rfl
@[simp] theorem State.setCrit_blk (b : Bool) : (s.setCrit b).blk = s.blk := rfl
@[simp] theorem State.setCrit_dout (b : Bool) : (s.setCrit b).dout = s.dout := rfl
@[simp] theorem State.setCrit_crit (b : Bool) : (s.setCrit b).crit = b := rfl
@[simp] theorem State.setCrit_haltCause (b : Bool) : (s.setCrit b).haltCause = s.haltCause := rfl
@[simp] theorem State.setCrit_fifo (b : Bool) : (s.setCrit b).fifo = s.fifo := rfl
@[simp] theorem State.setCrit_est (b : Bool) : (s.setCrit b).est = s.est := rfl
@[simp] theorem State.setCrit_eshr (b : Bool) : (s.setCrit b).eshr = s.eshr := rfl
@[simp] theorem State.setCrit_ebit (b : Bool) : (s.setCrit b).ebit = s.ebit := rfl
@[simp] theorem State.setCrit_esymt (b : Bool) : (s.setCrit b).esymt = s.esymt := rfl
@[simp] theorem State.setCrit_pins (b : Bool) : (s.setCrit b).pins = s.pins := rfl
@[simp] theorem State.setCrit_script (b : Bool) : (s.setCrit b).script = s.script := rfl
@[simp] theorem State.setCrit_wire (b : Bool) : (s.setCrit b).wire = s.wire := rfl
@[simp] theorem State.setCrit_ret (b : Bool) : (s.setCrit b).ret = s.ret := rfl

/-! ### `goTo` -/
@[simp] theorem State.goTo_cfg (c : BitVec 3) : (s.goTo c).cfg = s.cfg := rfl
@[simp] theorem State.goTo_phase (c : BitVec 3) : (s.goTo c).phase = s.phase := rfl
@[simp] theorem State.goTo_phl (c : BitVec 3) : (s.goTo c).phl = s.phl := rfl
@[simp] theorem State.goTo_col (c : BitVec 3) : (s.goTo c).col = s.col := rfl
@[simp] theorem State.goTo_cst (c : BitVec 3) : (s.goTo c).cst = c := rfl
@[simp] theorem State.goTo_txs (c : BitVec 3) : (s.goTo c).txs = s.txs := rfl
@[simp] theorem State.goTo_pix (c : BitVec 3) : (s.goTo c).pix = s.pix := rfl
@[simp] theorem State.goTo_ftmr (c : BitVec 3) : (s.goTo c).ftmr = s.ftmr := rfl
@[simp] theorem State.goTo_shr (c : BitVec 3) : (s.goTo c).shr = s.shr := rfl
@[simp] theorem State.goTo_bitcnt (c : BitVec 3) : (s.goTo c).bitcnt = s.bitcnt := rfl
@[simp] theorem State.goTo_tstart (c : BitVec 3) : (s.goTo c).tstart = s.tstart := rfl
@[simp] theorem State.goTo_tcnt (c : BitVec 3) : (s.goTo c).tcnt = s.tcnt := rfl
@[simp] theorem State.goTo_lcnt (c : BitVec 3) : (s.goTo c).lcnt = s.lcnt := rfl
@[simp] theorem State.goTo_blk (c : BitVec 3) : (s.goTo c).blk = s.blk := rfl
@[simp] theorem State.goTo_dout (c : BitVec 3) : (s.goTo c).dout = s.dout := rfl
@[simp] theorem State.goTo_crit (c : BitVec 3) : (s.goTo c).crit = s.crit := rfl
@[simp] theorem State.goTo_haltCause (c : BitVec 3) : (s.goTo c).haltCause = s.haltCause := rfl
@[simp] theorem State.goTo_fifo (c : BitVec 3) : (s.goTo c).fifo = s.fifo := rfl
@[simp] theorem State.goTo_est (c : BitVec 3) : (s.goTo c).est = s.est := rfl
@[simp] theorem State.goTo_eshr (c : BitVec 3) : (s.goTo c).eshr = s.eshr := rfl
@[simp] theorem State.goTo_ebit (c : BitVec 3) : (s.goTo c).ebit = s.ebit := rfl
@[simp] theorem State.goTo_esymt (c : BitVec 3) : (s.goTo c).esymt = s.esymt := rfl
@[simp] theorem State.goTo_pins (c : BitVec 3) : (s.goTo c).pins = s.pins := rfl
@[simp] theorem State.goTo_script (c : BitVec 3) : (s.goTo c).script = s.script := rfl
@[simp] theorem State.goTo_wire (c : BitVec 3) : (s.goTo c).wire = s.wire := rfl
@[simp] theorem State.goTo_ret (c : BitVec 3) : (s.goTo c).ret = s.ret := rfl

/-! ### `raiseHalt` -/
@[simp] theorem State.raiseHalt_cfg (cause : BitVec 2) : (s.raiseHalt cause).cfg = s.cfg := rfl
@[simp] theorem State.raiseHalt_phase (cause : BitVec 2) : (s.raiseHalt cause).phase = s.phase := rfl
@[simp] theorem State.raiseHalt_phl (cause : BitVec 2) : (s.raiseHalt cause).phl = s.phl := rfl
@[simp] theorem State.raiseHalt_col (cause : BitVec 2) : (s.raiseHalt cause).col = s.col := rfl
@[simp] theorem State.raiseHalt_cst (cause : BitVec 2) : (s.raiseHalt cause).cst = cstHalt := rfl
@[simp] theorem State.raiseHalt_txs (cause : BitVec 2) : (s.raiseHalt cause).txs = s.txs := rfl
@[simp] theorem State.raiseHalt_pix (cause : BitVec 2) : (s.raiseHalt cause).pix = s.pix := rfl
@[simp] theorem State.raiseHalt_ftmr (cause : BitVec 2) : (s.raiseHalt cause).ftmr = s.ftmr := rfl
@[simp] theorem State.raiseHalt_shr (cause : BitVec 2) : (s.raiseHalt cause).shr = s.shr := rfl
@[simp] theorem State.raiseHalt_bitcnt (cause : BitVec 2) : (s.raiseHalt cause).bitcnt = s.bitcnt := rfl
@[simp] theorem State.raiseHalt_tstart (cause : BitVec 2) : (s.raiseHalt cause).tstart = s.tstart := rfl
@[simp] theorem State.raiseHalt_tcnt (cause : BitVec 2) : (s.raiseHalt cause).tcnt = s.tcnt := rfl
@[simp] theorem State.raiseHalt_lcnt (cause : BitVec 2) : (s.raiseHalt cause).lcnt = s.lcnt := rfl
@[simp] theorem State.raiseHalt_blk (cause : BitVec 2) : (s.raiseHalt cause).blk = s.blk := rfl
@[simp] theorem State.raiseHalt_dout (cause : BitVec 2) : (s.raiseHalt cause).dout = s.dout := rfl
@[simp] theorem State.raiseHalt_crit (cause : BitVec 2) : (s.raiseHalt cause).crit = s.crit := rfl
@[simp] theorem State.raiseHalt_haltCause (cause : BitVec 2) : (s.raiseHalt cause).haltCause = cause := rfl
@[simp] theorem State.raiseHalt_fifo (cause : BitVec 2) : (s.raiseHalt cause).fifo = s.fifo := rfl
@[simp] theorem State.raiseHalt_est (cause : BitVec 2) : (s.raiseHalt cause).est = s.est := rfl
@[simp] theorem State.raiseHalt_eshr (cause : BitVec 2) : (s.raiseHalt cause).eshr = s.eshr := rfl
@[simp] theorem State.raiseHalt_ebit (cause : BitVec 2) : (s.raiseHalt cause).ebit = s.ebit := rfl
@[simp] theorem State.raiseHalt_esymt (cause : BitVec 2) : (s.raiseHalt cause).esymt = s.esymt := rfl
@[simp] theorem State.raiseHalt_pins (cause : BitVec 2) : (s.raiseHalt cause).pins = s.pins := rfl
@[simp] theorem State.raiseHalt_script (cause : BitVec 2) : (s.raiseHalt cause).script = s.script := rfl
@[simp] theorem State.raiseHalt_wire (cause : BitVec 2) : (s.raiseHalt cause).wire = s.wire := rfl
@[simp] theorem State.raiseHalt_ret (cause : BitVec 2) : (s.raiseHalt cause).ret = s.ret := rfl

/-! ### `startSymbol` -/
@[simp] theorem State.startSymbol_cfg : s.startSymbol.cfg = s.cfg := rfl
@[simp] theorem State.startSymbol_phase : s.startSymbol.phase = s.phase := rfl
@[simp] theorem State.startSymbol_phl : s.startSymbol.phl = s.phl := rfl
@[simp] theorem State.startSymbol_col : s.startSymbol.col = s.col := rfl
@[simp] theorem State.startSymbol_cst : s.startSymbol.cst = s.cst := rfl
@[simp] theorem State.startSymbol_txs : s.startSymbol.txs = txsTHigh := rfl
@[simp] theorem State.startSymbol_pix : s.startSymbol.pix = s.pix := rfl
@[simp] theorem State.startSymbol_ftmr : s.startSymbol.ftmr = s.ftmr := rfl
@[simp] theorem State.startSymbol_shr : s.startSymbol.shr = s.shr := rfl
@[simp] theorem State.startSymbol_bitcnt : s.startSymbol.bitcnt = s.bitcnt := rfl
@[simp] theorem State.startSymbol_tstart : s.startSymbol.tstart = s.tcnt + 1 := rfl
@[simp] theorem State.startSymbol_tcnt : s.startSymbol.tcnt = s.tcnt := rfl
@[simp] theorem State.startSymbol_lcnt : s.startSymbol.lcnt = s.lcnt := rfl
@[simp] theorem State.startSymbol_blk : s.startSymbol.blk = s.blk := rfl
@[simp] theorem State.startSymbol_dout : s.startSymbol.dout = true := rfl
@[simp] theorem State.startSymbol_crit : s.startSymbol.crit = s.crit := rfl
@[simp] theorem State.startSymbol_haltCause : s.startSymbol.haltCause = s.haltCause := rfl
@[simp] theorem State.startSymbol_fifo : s.startSymbol.fifo = s.fifo := rfl
@[simp] theorem State.startSymbol_est : s.startSymbol.est = s.est := rfl
@[simp] theorem State.startSymbol_eshr : s.startSymbol.eshr = s.eshr := rfl
@[simp] theorem State.startSymbol_ebit : s.startSymbol.ebit = s.ebit := rfl
@[simp] theorem State.startSymbol_esymt : s.startSymbol.esymt = s.esymt := rfl
@[simp] theorem State.startSymbol_pins : s.startSymbol.pins = s.pins := rfl
@[simp] theorem State.startSymbol_script : s.startSymbol.script = s.script := rfl
@[simp] theorem State.startSymbol_wire : s.startSymbol.wire = s.wire := rfl
@[simp] theorem State.startSymbol_ret : s.startSymbol.ret = s.ret := rfl

/-! ### `loadShr` -/
@[simp] theorem State.loadShr_cfg (w : Word24) : (s.loadShr w).cfg = s.cfg := rfl
@[simp] theorem State.loadShr_phase (w : Word24) : (s.loadShr w).phase = s.phase := rfl
@[simp] theorem State.loadShr_phl (w : Word24) : (s.loadShr w).phl = s.phl := rfl
@[simp] theorem State.loadShr_col (w : Word24) : (s.loadShr w).col = s.col := rfl
@[simp] theorem State.loadShr_cst (w : Word24) : (s.loadShr w).cst = s.cst := rfl
@[simp] theorem State.loadShr_txs (w : Word24) : (s.loadShr w).txs = s.txs := rfl
@[simp] theorem State.loadShr_pix (w : Word24) : (s.loadShr w).pix = s.pix := rfl
@[simp] theorem State.loadShr_ftmr (w : Word24) : (s.loadShr w).ftmr = s.ftmr := rfl
@[simp] theorem State.loadShr_shr (w : Word24) : (s.loadShr w).shr = w := rfl
@[simp] theorem State.loadShr_bitcnt (w : Word24) : (s.loadShr w).bitcnt = 24 := rfl
@[simp] theorem State.loadShr_tstart (w : Word24) : (s.loadShr w).tstart = s.tstart := rfl
@[simp] theorem State.loadShr_tcnt (w : Word24) : (s.loadShr w).tcnt = s.tcnt := rfl
@[simp] theorem State.loadShr_lcnt (w : Word24) : (s.loadShr w).lcnt = s.lcnt := rfl
@[simp] theorem State.loadShr_blk (w : Word24) : (s.loadShr w).blk = s.blk := rfl
@[simp] theorem State.loadShr_dout (w : Word24) : (s.loadShr w).dout = s.dout := rfl
@[simp] theorem State.loadShr_crit (w : Word24) : (s.loadShr w).crit = s.crit := rfl
@[simp] theorem State.loadShr_haltCause (w : Word24) : (s.loadShr w).haltCause = s.haltCause := rfl
@[simp] theorem State.loadShr_fifo (w : Word24) : (s.loadShr w).fifo = s.fifo := rfl
@[simp] theorem State.loadShr_est (w : Word24) : (s.loadShr w).est = s.est := rfl
@[simp] theorem State.loadShr_eshr (w : Word24) : (s.loadShr w).eshr = s.eshr := rfl
@[simp] theorem State.loadShr_ebit (w : Word24) : (s.loadShr w).ebit = s.ebit := rfl
@[simp] theorem State.loadShr_esymt (w : Word24) : (s.loadShr w).esymt = s.esymt := rfl
@[simp] theorem State.loadShr_pins (w : Word24) : (s.loadShr w).pins = s.pins := rfl
@[simp] theorem State.loadShr_script (w : Word24) : (s.loadShr w).script = s.script := rfl
@[simp] theorem State.loadShr_wire (w : Word24) : (s.loadShr w).wire = s.wire := rfl
@[simp] theorem State.loadShr_ret (w : Word24) : (s.loadShr w).ret = s.ret := rfl

/-! ### `transmitDone` -/
@[simp] theorem State.transmitDone_cfg : s.transmitDone.cfg = s.cfg := rfl
@[simp] theorem State.transmitDone_phase : s.transmitDone.phase = s.phase := rfl
@[simp] theorem State.transmitDone_phl : s.transmitDone.phl = s.phl := rfl
@[simp] theorem State.transmitDone_col : s.transmitDone.col = s.col := rfl
@[simp] theorem State.transmitDone_cst : s.transmitDone.cst = cstAdv := rfl
@[simp] theorem State.transmitDone_txs : s.transmitDone.txs = txsStart := rfl
@[simp] theorem State.transmitDone_pix : s.transmitDone.pix = s.pix := rfl
@[simp] theorem State.transmitDone_ftmr : s.transmitDone.ftmr = s.ftmr := rfl
@[simp] theorem State.transmitDone_shr : s.transmitDone.shr = s.shr := rfl
@[simp] theorem State.transmitDone_bitcnt : s.transmitDone.bitcnt = s.bitcnt := rfl
@[simp] theorem State.transmitDone_tstart : s.transmitDone.tstart = s.tstart := rfl
@[simp] theorem State.transmitDone_tcnt : s.transmitDone.tcnt = s.tcnt := rfl
@[simp] theorem State.transmitDone_lcnt : s.transmitDone.lcnt = s.lcnt := rfl
@[simp] theorem State.transmitDone_blk : s.transmitDone.blk = s.blk := rfl
@[simp] theorem State.transmitDone_dout : s.transmitDone.dout = s.dout := rfl
@[simp] theorem State.transmitDone_crit : s.transmitDone.crit = s.crit := rfl
@[simp] theorem State.transmitDone_haltCause : s.transmitDone.haltCause = s.haltCause := rfl
@[simp] theorem State.transmitDone_fifo : s.transmitDone.fifo = s.fifo := rfl
@[simp] theorem State.transmitDone_est : s.transmitDone.est = s.est := rfl
@[simp] theorem State.transmitDone_eshr : s.transmitDone.eshr = s.eshr := rfl
@[simp] theorem State.transmitDone_ebit : s.transmitDone.ebit = s.ebit := rfl
@[simp] theorem State.transmitDone_esymt : s.transmitDone.esymt = s.esymt := rfl
@[simp] theorem State.transmitDone_pins : s.transmitDone.pins = s.pins := rfl
@[simp] theorem State.transmitDone_script : s.transmitDone.script = s.script := rfl
@[simp] theorem State.transmitDone_wire : s.transmitDone.wire = s.wire := rfl
@[simp] theorem State.transmitDone_ret : s.transmitDone.ret = s.ret := rfl

/-! ### `qPush` -/
@[simp] theorem State.qPush_cfg (w : Word24) : (s.qPush w).cfg = s.cfg := rfl
@[simp] theorem State.qPush_phase (w : Word24) : (s.qPush w).phase = s.phase := rfl
@[simp] theorem State.qPush_phl (w : Word24) : (s.qPush w).phl = s.phl := rfl
@[simp] theorem State.qPush_col (w : Word24) : (s.qPush w).col = s.col := rfl
@[simp] theorem State.qPush_cst (w : Word24) : (s.qPush w).cst = s.cst := rfl
@[simp] theorem State.qPush_txs (w : Word24) : (s.qPush w).txs = s.txs := rfl
@[simp] theorem State.qPush_pix (w : Word24) : (s.qPush w).pix = s.pix := rfl
@[simp] theorem State.qPush_ftmr (w : Word24) : (s.qPush w).ftmr = s.ftmr := rfl
@[simp] theorem State.qPush_shr (w : Word24) : (s.qPush w).shr = s.shr := rfl
@[simp] theorem State.qPush_bitcnt (w : Word24) : (s.qPush w).bitcnt = s.bitcnt := rfl
@[simp] theorem State.qPush_tstart (w : Word24) : (s.qPush w).tstart = s.tstart := rfl
@[simp] theorem State.qPush_tcnt (w : Word24) : (s.qPush w).tcnt = s.tcnt := rfl
@[simp] theorem State.qPush_lcnt (w : Word24) : (s.qPush w).lcnt = s.lcnt := rfl
@[simp] theorem State.qPush_blk (w : Word24) : (s.qPush w).blk = s.blk := rfl
@[simp] theorem State.qPush_dout (w : Word24) : (s.qPush w).dout = s.dout := rfl
@[simp] theorem State.qPush_crit (w : Word24) : (s.qPush w).crit = s.crit := rfl
@[simp] theorem State.qPush_haltCause (w : Word24) : (s.qPush w).haltCause = s.haltCause := rfl
@[simp] theorem State.qPush_fifo (w : Word24) : (s.qPush w).fifo = s.fifo ++ [w] := rfl
@[simp] theorem State.qPush_est (w : Word24) : (s.qPush w).est = s.est := rfl
@[simp] theorem State.qPush_eshr (w : Word24) : (s.qPush w).eshr = s.eshr := rfl
@[simp] theorem State.qPush_ebit (w : Word24) : (s.qPush w).ebit = s.ebit := rfl
@[simp] theorem State.qPush_esymt (w : Word24) : (s.qPush w).esymt = s.esymt := rfl
@[simp] theorem State.qPush_pins (w : Word24) : (s.qPush w).pins = s.pins := rfl
@[simp] theorem State.qPush_script (w : Word24) : (s.qPush w).script = s.script := rfl
@[simp] theorem State.qPush_wire (w : Word24) : (s.qPush w).wire = s.wire := rfl
@[simp] theorem State.qPush_ret (w : Word24) : (s.qPush w).ret = s.ret := rfl

/-! ### `engineStart` -/
@[simp] theorem State.engineStart_cfg : s.engineStart.cfg = s.cfg := rfl
@[simp] theorem State.engineStart_phase : s.engineStart.phase = s.phase := rfl
@[simp] theorem State.engineStart_phl : s.engineStart.phl = s.phl := rfl
@[simp] theorem State.engineStart_col : s.engineStart.col = s.col := rfl
@[simp] theorem State.engineStart_cst : s.engineStart.cst = s.cst := rfl
@[simp] theorem State.engineStart_txs : s.engineStart.txs = s.txs := rfl
@[simp] theorem State.engineStart_pix : s.engineStart.pix = s.pix := rfl
@[simp] theorem State.engineStart_ftmr : s.engineStart.ftmr = s.ftmr := rfl
@[simp] theorem State.engineStart_shr : s.engineStart.shr = s.shr := rfl
@[simp] theorem State.engineStart_bitcnt : s.engineStart.bitcnt = s.bitcnt := rfl
@[simp] theorem State.engineStart_tstart : s.engineStart.tstart = s.tstart := rfl
@[simp] theorem State.engineStart_tcnt : s.engineStart.tcnt = s.tcnt := rfl
@[simp] theorem State.engineStart_lcnt : s.engineStart.lcnt = s.lcnt := rfl
@[simp] theorem State.engineStart_blk : s.engineStart.blk = s.blk := rfl
@[simp] theorem State.engineStart_dout : s.engineStart.dout = true := rfl
@[simp] theorem State.engineStart_crit : s.engineStart.crit = s.crit := rfl
@[simp] theorem State.engineStart_haltCause : s.engineStart.haltCause = s.haltCause := rfl
@[simp] theorem State.engineStart_fifo : s.engineStart.fifo = s.fifo := rfl
@[simp] theorem State.engineStart_est : s.engineStart.est = estHigh := rfl
@[simp] theorem State.engineStart_eshr : s.engineStart.eshr = s.eshr := rfl
@[simp] theorem State.engineStart_ebit : s.engineStart.ebit = s.ebit := rfl
@[simp] theorem State.engineStart_esymt : s.engineStart.esymt = 0 := rfl
@[simp] theorem State.engineStart_pins : s.engineStart.pins = s.pins := rfl
@[simp] theorem State.engineStart_script : s.engineStart.script = s.script := rfl
@[simp] theorem State.engineStart_wire : s.engineStart.wire = s.wire := rfl
@[simp] theorem State.engineStart_ret : s.engineStart.ret = s.ret := rfl

/-! ### `engineLoad` -/
@[simp] theorem State.engineLoad_cfg (w : Word24) (rest : List Word24) : (s.engineLoad w rest).cfg = s.cfg := rfl
@[simp] theorem State.engineLoad_phase (w : Word24) (rest : List Word24) : (s.engineLoad w rest).phase = s.phase := rfl
@[simp] theorem State.engineLoad_phl (w : Word24) (rest : List Word24) : (s.engineLoad w rest).phl = s.phl := rfl
@[simp] theorem State.engineLoad_col (w : Word24) (rest : List Word24) : (s.engineLoad w rest).col = s.col := rfl
@[simp] theorem State.engineLoad_cst (w : Word24) (rest : List Word24) : (s.engineLoad w rest).cst = s.cst := rfl
@[simp] theorem State.engineLoad_txs (w : Word24) (rest : List Word24) : (s.engineLoad w rest).txs = s.txs := rfl
@[simp] theorem State.engineLoad_pix (w : Word24) (rest : List Word24) : (s.engineLoad w rest).pix = s.pix := rfl
@[simp] theorem State.engineLoad_ftmr (w : Word24) (rest : List Word24) : (s.engineLoad w rest).ftmr = s.ftmr := rfl
@[simp] theorem State.engineLoad_shr (w : Word24) (rest : List Word24) : (s.engineLoad w rest).shr = s.shr := rfl
@[simp] theorem State.engineLoad_bitcnt (w : Word24) (rest : List Word24) : (s.engineLoad w rest).bitcnt = s.bitcnt := rfl
@[simp] theorem State.engineLoad_tstart (w : Word24) (rest : List Word24) : (s.engineLoad w rest).tstart = s.tstart := rfl
@[simp] theorem State.engineLoad_tcnt (w : Word24) (rest : List Word24) : (s.engineLoad w rest).tcnt = s.tcnt := rfl
@[simp] theorem State.engineLoad_lcnt (w : Word24) (rest : List Word24) : (s.engineLoad w rest).lcnt = s.lcnt := rfl
@[simp] theorem State.engineLoad_blk (w : Word24) (rest : List Word24) : (s.engineLoad w rest).blk = s.blk := rfl
@[simp] theorem State.engineLoad_dout (w : Word24) (rest : List Word24) : (s.engineLoad w rest).dout = true := rfl
@[simp] theorem State.engineLoad_crit (w : Word24) (rest : List Word24) : (s.engineLoad w rest).crit = s.crit := rfl
@[simp] theorem State.engineLoad_haltCause (w : Word24) (rest : List Word24) : (s.engineLoad w rest).haltCause = s.haltCause := rfl
@[simp] theorem State.engineLoad_fifo (w : Word24) (rest : List Word24) : (s.engineLoad w rest).fifo = rest := rfl
@[simp] theorem State.engineLoad_est (w : Word24) (rest : List Word24) : (s.engineLoad w rest).est = estHigh := rfl
@[simp] theorem State.engineLoad_eshr (w : Word24) (rest : List Word24) : (s.engineLoad w rest).eshr = w := rfl
@[simp] theorem State.engineLoad_ebit (w : Word24) (rest : List Word24) : (s.engineLoad w rest).ebit = 24 := rfl
@[simp] theorem State.engineLoad_esymt (w : Word24) (rest : List Word24) : (s.engineLoad w rest).esymt = 0 := rfl
@[simp] theorem State.engineLoad_pins (w : Word24) (rest : List Word24) : (s.engineLoad w rest).pins = s.pins := rfl
@[simp] theorem State.engineLoad_script (w : Word24) (rest : List Word24) : (s.engineLoad w rest).script = s.script := rfl
@[simp] theorem State.engineLoad_wire (w : Word24) (rest : List Word24) : (s.engineLoad w rest).wire = s.wire := rfl
@[simp] theorem State.engineLoad_ret (w : Word24) (rest : List Word24) : (s.engineLoad w rest).ret = s.ret := rfl

/-! ### `returns` -/
@[simp] theorem State.returns_cfg (v : OpResult) : (s.returns v).cfg = s.cfg := rfl
@[simp] theorem State.returns_phase (v : OpResult) : (s.returns v).phase = s.phase := rfl
@[simp] theorem State.returns_phl (v : OpResult) : (s.returns v).phl = s.phl := rfl
@[simp] theorem State.returns_col (v : OpResult) : (s.returns v).col = s.col := rfl
@[simp] theorem State.returns_cst (v : OpResult) : (s.returns v).cst = s.cst := rfl
@[simp] theorem State.returns_txs (v : OpResult) : (s.returns v).txs = s.txs := rfl
@[simp] theorem State.returns_pix (v : OpResult) : (s.returns v).pix = s.pix := rfl
@[simp] theorem State.returns_ftmr (v : OpResult) : (s.returns v).ftmr = s.ftmr := rfl
@[simp] theorem State.returns_shr (v : OpResult) : (s.returns v).shr = s.shr := rfl
@[simp] theorem State.returns_bitcnt (v : OpResult) : (s.returns v).bitcnt = s.bitcnt := rfl
@[simp] theorem State.returns_tstart (v : OpResult) : (s.returns v).tstart = s.tstart := rfl
@[simp] theorem State.returns_tcnt (v : OpResult) : (s.returns v).tcnt = s.tcnt := rfl
@[simp] theorem State.returns_lcnt (v : OpResult) : (s.returns v).lcnt = s.lcnt := rfl
@[simp] theorem State.returns_blk (v : OpResult) : (s.returns v).blk = s.blk := rfl
@[simp] theorem State.returns_dout (v : OpResult) : (s.returns v).dout = s.dout := rfl
@[simp] theorem State.returns_crit (v : OpResult) : (s.returns v).crit = s.crit := rfl
@[simp] theorem State.returns_haltCause (v : OpResult) : (s.returns v).haltCause = s.haltCause := rfl
@[simp] theorem State.returns_fifo (v : OpResult) : (s.returns v).fifo = s.fifo := rfl
@[simp] theorem State.returns_est (v : OpResult) : (s.returns v).est = s.est := rfl
@[simp] theorem State.returns_eshr (v : OpResult) : (s.returns v).eshr = s.eshr := rfl
@[simp] theorem State.returns_ebit (v : OpResult) : (s.returns v).ebit = s.ebit := rfl
@[simp] theorem State.returns_esymt (v : OpResult) : (s.returns v).esymt = s.esymt := rfl
@[simp] theorem State.returns_pins (v : OpResult) : (s.returns v).pins = s.pins := rfl
@[simp] theorem State.returns_script (v : OpResult) : (s.returns v).script = s.script := rfl
@[simp] theorem State.returns_wire (v : OpResult) : (s.returns v).wire = s.wire := rfl
@[simp] theorem State.returns_ret (v : OpResult) : (s.returns v).ret = v := rfl

/-! ### `passTicks` -/
@[simp] theorem State.passTicks_cfg (k : Nat) : (s.passTicks k).cfg = s.cfg := rfl
@[simp] theorem State.passTicks_phase (k : Nat) : (s.passTicks k).phase = s.phase := rfl
@[simp] theorem State.passTicks_phl (k : Nat) : (s.passTicks k).phl = s.phl := rfl
@[simp] theorem State.passTicks_col (k : Nat) : (s.passTicks k).col = s.col := rfl
@[simp] theorem State.passTicks_cst (k : Nat) : (s.passTicks k).cst = s.cst := rfl
@[simp] theorem State.passTicks_txs (k : Nat) : (s.passTicks k).txs = s.txs := rfl
@[simp] theorem State.passTicks_pix (k : Nat) : (s.passTicks k).pix = s.pix := rfl
@[simp] theorem State.passTicks_ftmr (k : Nat) : (s.passTicks k).ftmr = s.ftmr := rfl
@[simp] theorem State.passTicks_shr (k : Nat) : (s.passTicks k).shr = s.shr := rfl
@[simp] theorem State.passTicks_bitcnt (k : Nat) : (s.passTicks k).bitcnt = s.bitcnt := rfl
@[simp] theorem State.passTicks_tstart (k : Nat) : (s.passTicks k).tstart = s.tstart := rfl
@[simp] theorem State.passTicks_tcnt (k : Nat) : (s.passTicks k).tcnt = s.tcnt + BitVec.ofNat 32 k := rfl
@[simp] theorem State.passTicks_lcnt (k : Nat) : (s.passTicks k).lcnt = s.lcnt := rfl
@[simp] theorem State.passTicks_blk (k : Nat) : (s.passTicks k).blk = s.blk := rfl
@[simp] theorem State.passTicks_dout (k : Nat) : (s.passTicks k).dout = s.dout := rfl
@[simp] theorem State.passTicks_crit (k : Nat) : (s.passTicks k).crit = s.crit := rfl
@[simp] theorem State.passTicks_haltCause (k : Nat) : (s.passTicks k).haltCause = s.haltCause := rfl
@[simp] theorem State.passTicks_fifo (k : Nat) : (s.passTicks k).fifo = s.fifo := rfl
@[simp] theorem State.passTicks_est (k : Nat) : (s.passTicks k).est = s.est := rfl
@[simp] theorem State.passTicks_eshr (k : Nat) : (s.passTicks k).eshr = s.eshr := rfl
@[simp] theorem State.passTicks_ebit (k : Nat) : (s.passTicks k).ebit = s.ebit := rfl
@[simp] theorem State.passTicks_esymt (k : Nat) : (s.passTicks k).esymt = s.esymt := rfl
@[simp] theorem State.passTicks_pins (k : Nat) : (s.passTicks k).pins = s.pinsAt k := rfl
@[simp] theorem State.passTicks_script (k : Nat) : (s.passTicks k).script = s.script.drop k := rfl
@[simp] theorem State.passTicks_wire (k : Nat) : (s.passTicks k).wire = s.wire := rfl
@[simp] theorem State.passTicks_ret (k : Nat) : (s.passTicks k).ret = s.ret := rfl

/-! ### `emit` -/
@[simp] theorem State.emit_cfg (wave : List Bool) : (s.emit wave).cfg = s.cfg := rfl
@[simp] theorem State.emit_phase (wave : List Bool) : (s.emit wave).phase = s.phase := rfl
@[simp] theorem State.emit_phl (wave : List Bool) : (s.emit wave).phl = s.phl := rfl
@[simp] theorem State.emit_col (wave : List Bool) : (s.emit wave).col = s.col := rfl
@[simp] theorem State.emit_cst (wave : List Bool) : (s.emit wave).cst = s.cst := rfl
@[simp] theorem State.emit_txs (wave : List Bool) : (s.emit wave).txs = s.txs := rfl
@[simp] theorem State.emit_pix (wave : List Bool) : (s.emit wave).pix = s.pix := rfl
@[simp] theorem State.emit_ftmr (wave : List Bool) : (s.emit wave).ftmr = s.ftmr := rfl
@[simp] theorem State.emit_shr (wave : List Bool) : (s.emit wave).shr = s.shr := rfl
@[simp] theorem State.emit_bitcnt (wave : List Bool) : (s.emit wave).bitcnt = s.bitcnt := rfl
@[simp] theorem State.emit_tstart (wave : List Bool) : (s.emit wave).tstart = s.tstart := rfl
@[simp] theorem State.emit_tcnt (wave : List Bool) : (s.emit wave).tcnt = s.tcnt + BitVec.ofNat 32 wave.length := rfl
@[simp] theorem State.emit_lcnt (wave : List Bool) : (s.emit wave).lcnt = s.lcnt := rfl
@[simp] theorem State.emit_blk (wave : List Bool) : (s.emit wave).blk = s.blk := rfl
@[simp] theorem State.emit_dout (wave : List Bool) : (s.emit wave).dout = wave.getLastD s.dout := rfl
@[simp] theorem State.emit_crit (wave : List Bool) : (s.emit wave).crit = s.crit := rfl
@[simp] theorem State.emit_haltCause (wave : List Bool) : (s.emit wave).haltCause = s.haltCause := rfl
@[simp] theorem State.emit_fifo (wave : List Bool) : (s.emit wave).fifo = s.fifo := rfl
@[simp] theorem State.emit_est (wave : List Bool) : (s.emit wave).est = s.est := rfl
@[simp] theorem State.emit_eshr (wave : List Bool) : (s.emit wave).eshr = s.eshr := rfl
@[simp] theorem State.emit_ebit (wave : List Bool) : (s.emit wave).ebit = s.ebit := rfl
@[simp] theorem State.emit_esymt (wave : List Bool) : (s.emit wave).esymt = s.esymt := rfl
@[simp] theorem State.emit_pins (wave : List Bool) : (s.emit wave).pins = s.pinsAt wave.length := rfl
@[simp] theorem State.emit_script (wave : List Bool) : (s.emit wave).script = s.script.drop wave.length := rfl
@[simp] theorem State.emit_wire (wave : List Bool) : (s.emit wave).wire = s.wire ++ wave := rfl
@[simp] theorem State.emit_ret (wave : List Bool) : (s.emit wave).ret = s.ret := rfl

/-! ### `endTick` -/
@[simp] theorem State.endTick_cfg (t : State) : (s.endTick t).cfg = t.cfg := rfl
@[simp] theorem State.endTick_phase (t : State) : (s.endTick t).phase = t.phase := rfl
@[simp] theorem State.endTick_phl (t : State) : (s.endTick t).phl = t.phl := rfl
@[simp] theorem State.endTick_col (t : State) : (s.endTick t).col = t.col := rfl
@[simp] theorem State.endTick_cst (t : State) : (s.endTick t).cst = t.cst := rfl
@[simp] theorem State.endTick_txs (t : State) : (s.endTick t).txs = t.txs := rfl
@[simp] theorem State.endTick_pix (t : State) : (s.endTick t).pix = t.pix := rfl
@[simp] theorem State.endTick_ftmr (t : State) : (s.endTick t).ftmr = t.ftmr := rfl
@[simp] theorem State.endTick_shr (t : State) : (s.endTick t).shr = t.shr := rfl
@[simp] theorem State.endTick_bitcnt (t : State) : (s.endTick t).bitcnt = t.bitcnt := rfl
@[simp] theorem State.endTick_tstart (t : State) : (s.endTick t).tstart = t.tstart := rfl
@[simp] theorem State.endTick_tcnt (t : State) : (s.endTick t).tcnt = s.tcnt + 1 := rfl
@[simp] theorem State.endTick_lcnt (t : State) : (s.endTick t).lcnt = t.lcnt := rfl
@[simp] theorem State.endTick_blk (t : State) : (s.endTick t).blk = t.blk := rfl
@[simp] theorem State.endTick_dout (t : State) : (s.endTick t).dout = t.dout := rfl
@[simp] theorem State.endTick_crit (t : State) : (s.endTick t).crit = t.crit := rfl
@[simp] theorem State.endTick_haltCause (t : State) : (s.endTick t).haltCause = t.haltCause := rfl
@[simp] theorem State.endTick_fifo (t : State) : (s.endTick t).fifo = t.fifo := rfl
@[simp] theorem State.endTick_est (t : State) : (s.endTick t).est = t.est := rfl
@[simp] theorem State.endTick_eshr (t : State) : (s.endTick t).eshr = t.eshr := rfl
@[simp] theorem State.endTick_ebit (t : State) : (s.endTick t).ebit = t.ebit := rfl
@[simp] theorem State.endTick_esymt (t : State) : (s.endTick t).esymt = t.esymt := rfl
@[simp] theorem State.endTick_pins (t : State) : (s.endTick t).pins = s.pinsAt 1 := rfl
@[simp] theorem State.endTick_script (t : State) : (s.endTick t).script = s.script.drop 1 := rfl
@[simp] theorem State.endTick_wire (t : State) : (s.endTick t).wire = s.wire ++ [s.dout] := rfl
@[simp] theorem State.endTick_ret (t : State) : (s.endTick t).ret = t.ret := rfl

/-! ### `joint` -/
@[simp] theorem State.joint_cfg (c e : State) : (s.joint c e).cfg = c.cfg := rfl
@[simp] theorem State.joint_phase (c e : State) : (s.joint c e).phase = c.phase := rfl
@[simp] theorem State.joint_phl (c e : State) : (s.joint c e).phl = c.phl := rfl
@[simp] theorem State.joint_col (c e : State) : (s.joint c e).col = c.col := rfl
@[simp] theorem State.joint_cst (c e : State) : (s.joint c e).cst = c.cst := rfl
@[simp] theorem State.joint_txs (c e : State) : (s.joint c e).txs = c.txs := rfl
@[simp] theorem State.joint_pix (c e : State) : (s.joint c e).pix = c.pix := rfl
@[simp] theorem State.joint_ftmr (c e : State) : (s.joint c e).ftmr = c.ftmr := rfl
@[simp] theorem State.joint_shr (c e : State) : (s.joint c e).shr = c.shr := rfl
@[simp] theorem State.joint_bitcnt (c e : State) : (s.joint c e).bitcnt = c.bitcnt := rfl
@[simp] theorem State.joint_tstart (c e : State) : (s.joint c e).tstart = c.tstart := rfl
@[simp] theorem State.joint_tcnt (c e : State) : (s.joint c e).tcnt = c.tcnt := rfl
@[simp] theorem State.joint_lcnt (c e : State) : (s.joint c e).lcnt = c.lcnt := rfl
@[simp] theorem State.joint_blk (c e : State) : (s.joint c e).blk = c.blk := rfl
@[simp] theorem State.joint_dout (c e : State) : (s.joint c e).dout = e.dout := rfl
@[simp] theorem State.joint_crit (c e : State) : (s.joint c e).crit = c.crit := rfl
@[simp] theorem State.joint_haltCause (c e : State) : (s.joint c e).haltCause = c.haltCause := rfl
@[simp] theorem State.joint_fifo (c e : State) : (s.joint c e).fifo = e.fifo ++ c.fifo.drop s.fifo.length := rfl
@[simp] theorem State.joint_est (c e : State) : (s.joint c e).est = e.est := rfl
@[simp] theorem State.joint_eshr (c e : State) : (s.joint c e).eshr = e.eshr := rfl
@[simp] theorem State.joint_ebit (c e : State) : (s.joint c e).ebit = e.ebit := rfl
@[simp] theorem State.joint_esymt (c e : State) : (s.joint c e).esymt = e.esymt := rfl
@[simp] theorem State.joint_pins (c e : State) : (s.joint c e).pins = c.pins := rfl
@[simp] theorem State.joint_script (c e : State) : (s.joint c e).script = c.script := rfl
@[simp] theorem State.joint_wire (c e : State) : (s.joint c e).wire = c.wire := rfl
@[simp] theorem State.joint_ret (c e : State) : (s.joint c e).ret = c.ret := rfl

/-! ### `resetTick` -/
@[simp] theorem State.resetTick_cfg : s.resetTick.cfg = s.cfg := rfl
@[simp] theorem State.resetTick_phase : s.resetTick.phase = s.cfg.phaseInit := rfl
@[simp] theorem State.resetTick_phl : s.resetTick.phl = 0 := rfl
@[simp] theorem State.resetTick_col : s.resetTick.col = ⟨0, 0, 0⟩ := rfl
@[simp] theorem State.resetTick_cst : s.resetTick.cst = cstInit := rfl
@[simp] theorem State.resetTick_txs : s.resetTick.txs = txsStart := rfl
@[simp] theorem State.resetTick_pix : s.resetTick.pix = 0 := rfl
@[simp] theorem State.resetTick_ftmr : s.resetTick.ftmr = 0 := rfl
@[simp] theorem State.resetTick_shr : s.resetTick.shr = 0 := rfl
@[simp] theorem State.resetTick_bitcnt : s.resetTick.bitcnt = 0 := rfl
@[simp] theorem State.resetTick_tstart : s.resetTick.tstart = 0 := rfl
@[simp] theorem State.resetTick_tcnt : s.resetTick.tcnt = s.tcnt + 1 := rfl
@[simp] theorem State.resetTick_lcnt : s.resetTick.lcnt = 0 := rfl
@[simp] theorem State.resetTick_blk : s.resetTick.blk = 0 := rfl
@[simp] theorem State.resetTick_dout : s.resetTick.dout = false := rfl
@[simp] theorem State.resetTick_crit : s.resetTick.crit = false := rfl
@[simp] theorem State.resetTick_haltCause : s.resetTick.haltCause = causeNone := rfl
@[simp] theorem State.resetTick_fifo : s.resetTick.fifo = [] := rfl
@[simp] theorem State.resetTick_est : s.resetTick.est = estIdle := rfl
@[simp] theorem State.resetTick_eshr : s.resetTick.eshr = 0 := rfl
@[simp] theorem State.resetTick_ebit : s.resetTick.ebit = 0 := rfl
@[simp] theorem State.resetTick_esymt : s.resetTick.esymt = 0 := rfl
@[simp] theorem State.resetTick_pins : s.resetTick.pins = s.pinsAt 1 := rfl
@[simp] theorem State.resetTick_script : s.resetTick.script = s.script.drop 1 := rfl
@[simp] theorem State.resetTick_wire : s.resetTick.wire = s.wire ++ [s.dout] := rfl
@[simp] theorem State.resetTick_ret : s.resetTick.ret = s.ret := rfl

end Sys2Proof.Machine
end

