-- ==== Sys2Proof/Laws/Ops.lean ====
section
/-!
SUPPORT. For each shared operation one lemma that says once everything it can do, and the bounds that well-formedness
gives. The tick-level operations are stated for every sequence (`Feed`).
-/
namespace Sys2Proof

/-! ### What well-formedness says -/

theorem Config.wf_bit {cfg : Config} (h : cfg.wf = true) :
    1 ≤ cfg.t0h ∧ cfg.t0h < cfg.t1h ∧ cfg.t1h < cfg.total ∧ cfg.total < 2 ^ 32 := by
  simp [Config.wf, Config.wfBit] at h; omega

theorem Config.wf_interval {cfg : Config} (h : cfg.wf = true) :
    1 ≤ cfg.treset ∧ cfg.treset < 2 ^ 32 ∧ 1 ≤ cfg.frameTicks ∧ cfg.frameTicks < 2 ^ 32 := by
  simp [Config.wf, Config.wfInterval] at h; omega

theorem Config.wf_pixels {cfg : Config} (h : cfg.wf = true) : 1 ≤ cfg.npix ∧ cfg.npix ≤ 12 := by
  simp [Config.wf, Config.wfPixels] at h; omega

theorem Config.wf_queue {cfg : Config} (h : cfg.wf = true) (hs : cfg.strategy = .sm) :
    1 ≤ cfg.qdepth ∧ cfg.blockBound < 2 ^ 32 := by
  simp [Config.wf, Config.wfQueue, hs] at h; omega

/-- A bit symbol is high for at least one tick and low for at least one (R132, R133). -/
theorem Config.hiTicks_bounds {cfg : Config} (h : cfg.wf = true) (b : Bool) :
    1 ≤ cfg.hiTicks b ∧ cfg.hiTicks b < cfg.total := by
  have := Config.wf_bit h
  unfold Config.hiTicks
  split <;> omega

theorem Config.bitWave_length {cfg : Config} (h : cfg.wf = true) (b : Bool) :
    (cfg.bitWave b).length = cfg.total := by
  have := (Config.hiTicks_bounds h b).2
  simp [Config.bitWave]; omega

/-- The level of each tick of a bit symbol (R81). -/
theorem Config.bitWave_get {cfg : Config} (h : cfg.wf = true) (b : Bool) {j : Nat} (hj : j < cfg.total) :
    (cfg.bitWave b)[j]? = some (decide (j < cfg.hiTicks b)) := by
  have := (Config.hiTicks_bounds h b).2
  by_cases hlt : j < cfg.hiTicks b
  · simp [Config.bitWave, List.getElem?_append, hlt]
  · simp only [Config.bitWave, List.getElem?_append, List.length_replicate, hlt, if_false, List.getElem?_replicate]
    simp; omega

theorem Config.pixelWave_length {cfg : Config} (h : cfg.wf = true) (w : Word24) :
    (cfg.pixelWave w).length = 24 * cfg.total := by
  have aux : ∀ (n : Nat) (w : Word24), ((wordBits n w).flatMap cfg.bitWave).length = n * cfg.total := by
    intro n
    induction n with
    | zero => intro w; simp [wordBits]
    | succ n ih => intro w; simp only [wordBits, List.flatMap_cons, List.length_append, ih, Config.bitWave_length h]; ring
  exact aux 24 w

namespace Machine

/-! ### Configurations with a meaning -/

theorem underWf_ok {s : State} (h : s.cfg.wf = true) (o : Host.Outcome State Fault Refusal) : s.underWf o = o := by
  simp [State.underWf, h]

theorem underWf_refused {s : State} (h : s.cfg.wf = false) (o : Host.Outcome State Fault Refusal) :
    s.underWf o = .refused .illFormedConfig := by
  simp [State.underWf, h]

/-! ### Reserved codes -/

/-- When a state holds no reserved code. -/
theorem reservedCode_none {s : State} : s.reservedCode = none ↔
    s.cst ≠ cstReserved ∧ s.haltCause ≠ causeReserved ∧ (s.cfg.strategy = .sm → s.est ≠ estReserved) := by
  unfold State.reservedCode
  split_ifs <;> simp_all

theorem underCodes_ok {s : State} (h : s.reservedCode = none) (o : Host.Outcome State Fault Refusal) :
    s.underCodes o = o := by
  simp [State.underCodes, h]

theorem underCodes_fault {s : State} {x : Fault} (h : s.reservedCode = some x) (o : Host.Outcome State Fault Refusal) :
    s.underCodes o = .fault x := by
  simp [State.underCodes, h]

/-- `TRANSMIT` from a state without a reserved code is the whole call. -/
theorem execTransmit_call {s : State} {colors : List Color} {sc : Byte} (hwf : s.cfg.wf = true)
    (hi : (Instr.transmit colors sc).wf = true) (h : s.reservedCode = none) :
    execTransmit colors sc s = .next (s.transmitCall (seqFeed s.cfg.chorder colors sc)) := by
  simp [execTransmit, underWf_ok hwf, hi, underCodes_ok h]

/-! ### Controller operations -/

/-- Everything a blocked tick can do (R145, R146). -/
theorem blocked_cases (s : State) :
    (s.cfg.blockBound ≤ s.blk.toNat ∧ s.blocked = s.raiseHalt causeTxFail) ∨
    (s.blk.toNat < s.cfg.blockBound ∧ s.blocked = { s with blk := s.blk + 1 }) := by
  unfold State.blocked
  split
  · exact .inl ⟨‹_›, rfl⟩
  · exact .inr ⟨by omega, rfl⟩

/-- Everything a Timer-Paced tick in `TX` can do (R138 to R141). -/
theorem timerTick_cases (s : State) (f : Feed) :
    (s.txs = txsStart ∧ s.pins.chanAvail = false ∧ s.timerTick f = s.raiseHalt causeTxFail) ∨
    (s.txs = txsStart ∧ s.pins.chanAvail = true ∧
      s.timerTick f = { s with
        pix := 0, shr := f.wordAt 0, bitcnt := 24, dout := true, crit := true, tstart := s.tcnt + 1
        txs := txsTHigh }) ∨
    (s.txs = txsTHigh ∧ s.hiTimer ≤ s.elapsed.toNat + 1 ∧
      s.timerTick f = { s with dout := false, txs := txsTLow }) ∨
    (s.txs = txsTHigh ∧ s.elapsed.toNat + 1 < s.hiTimer ∧ s.timerTick f = s) ∨
    (s.txs = txsTLow ∧ s.elapsed.toNat + 1 < s.cfg.total ∧ s.timerTick f = s) ∨
    (s.txs = txsTLow ∧ s.cfg.total ≤ s.elapsed.toNat + 1 ∧ 1 < s.bitcnt.toNat ∧
      s.timerTick f = { s with
        shr := s.shr <<< 1, bitcnt := s.bitcnt - 1, dout := true, tstart := s.tcnt + 1, txs := txsTHigh }) ∨
    (s.txs = txsTLow ∧ s.cfg.total ≤ s.elapsed.toNat + 1 ∧ s.bitcnt.toNat ≤ 1 ∧ s.pix.toNat + 1 < f.n ∧
      s.timerTick f = { s with
        pix := s.pix + 1, shr := f.wordAt (s.pix.toNat + 1), bitcnt := 24, dout := true, tstart := s.tcnt + 1
        txs := txsTHigh }) ∨
    (s.txs = txsTLow ∧ s.cfg.total ≤ s.elapsed.toNat + 1 ∧ s.bitcnt.toNat ≤ 1 ∧ f.n ≤ s.pix.toNat + 1 ∧
      s.timerTick f = { s with crit := false, tstart := s.tcnt + 1, txs := txsTLatch }) ∨
    (s.txs = txsTLatch ∧ s.cfg.treset ≤ s.elapsed.toNat + 1 ∧ s.timerTick f = s.transmitDone) ∨
    (s.txs = txsTLatch ∧ s.elapsed.toNat + 1 < s.cfg.treset ∧ s.timerTick f = s) := by
  unfold State.timerTick State.timerStart State.timerHigh State.timerLow State.timerLatch
  have hc : s.txs = txsStart ∨ s.txs = txsTHigh ∨ s.txs = txsTLow ∨ s.txs = txsTLatch := by
    generalize s.txs = c; revert c; decide
  rcases hc with h | h | h | h
  · cases hp : s.pins.chanAvail
    · exact .inl ⟨h, rfl, by simp [h]⟩
    · exact .inr (.inl ⟨h, rfl, by simp [h]; rfl⟩)
  · by_cases hh : s.hiTimer ≤ s.elapsed.toNat + 1
    · exact .inr (.inr (.inl ⟨h, hh, by simp [h, hh, State.driveLine]⟩))
    · exact .inr (.inr (.inr (.inl ⟨h, by omega, by simp [h, hh]⟩)))
  · by_cases hh : s.cfg.total ≤ s.elapsed.toNat + 1
    · by_cases hb : 1 < s.bitcnt.toNat
      · exact .inr (.inr (.inr (.inr (.inr (.inl ⟨h, hh, hb, by simp [h, hh, hb, State.startSymbol]⟩)))))
      · by_cases hp : s.pix.toNat + 1 < f.n
        · exact .inr (.inr (.inr (.inr (.inr (.inr (.inl
            ⟨h, hh, by omega, hp, by simp [h, hh, hb, hp, State.startSymbol, State.loadShr]⟩))))))
        · exact .inr (.inr (.inr (.inr (.inr (.inr (.inr (.inl
            ⟨h, hh, by omega, by omega, by simp [h, hh, hb, hp, State.setCrit]⟩)))))))
    · exact .inr (.inr (.inr (.inr (.inl ⟨h, by omega, by simp [h, hh]⟩))))
  · by_cases hh : s.cfg.treset ≤ s.elapsed.toNat + 1
    · exact .inr (.inr (.inr (.inr (.inr (.inr (.inr (.inr (.inl ⟨h, hh, by simp [h, hh]⟩))))))))
    · exact .inr (.inr (.inr (.inr (.inr (.inr (.inr (.inr (.inr ⟨h, by omega, by simp [h, hh]⟩))))))))

/-- Everything a State-Machine controller tick in `TX` can do (R144 to R147). -/
theorem smTick_cases (s : State) (f : Feed) :
    (s.txs = txsStart ∧ s.pins.chanAvail = false ∧ s.smTick f = s.raiseHalt causeTxFail) ∨
    (s.txs = txsStart ∧ s.pins.chanAvail = true ∧
      s.smTick f = { s with pix := 0, blk := 0, txs := txsSPush }) ∨
    (s.txs = txsSPush ∧ s.fifo.length < s.cfg.qdepth ∧ s.pix.toNat + 1 < f.n ∧
      s.smTick f = { s with fifo := s.fifo ++ [f.wordAt s.pix.toNat], blk := 0, pix := s.pix + 1 }) ∨
    (s.txs = txsSPush ∧ s.fifo.length < s.cfg.qdepth ∧ f.n ≤ s.pix.toNat + 1 ∧
      s.smTick f = { s with fifo := s.fifo ++ [f.wordAt s.pix.toNat], blk := 0, txs := txsSDrain }) ∨
    (s.txs = txsSPush ∧ s.cfg.qdepth ≤ s.fifo.length ∧ s.smTick f = s.blocked) ∨
    (s.txs = txsSDrain ∧ s.fifo = [] ∧ s.est = estIdle ∧
      s.smTick f = { s with lcnt := 0, txs := txsSLatch }) ∨
    (s.txs = txsSDrain ∧ ¬ (s.fifo = [] ∧ s.est = estIdle) ∧ s.pins.chanAvail = true ∧
      s.smTick f = { s with blk := 0 }) ∨
    (s.txs = txsSDrain ∧ ¬ (s.fifo = [] ∧ s.est = estIdle) ∧ s.pins.chanAvail = false ∧ s.smTick f = s.blocked) ∨
    (s.txs = txsSLatch ∧ s.cfg.treset ≤ s.lcnt.toNat + 1 ∧ s.smTick f = s.transmitDone) ∨
    (s.txs = txsSLatch ∧ s.lcnt.toNat + 1 < s.cfg.treset ∧ s.smTick f = { s with lcnt := s.lcnt + 1 }) := by
  unfold State.smTick State.smStart State.smPush State.smDrain State.smLatch
  have hc : s.txs = txsStart ∨ s.txs = txsSPush ∨ s.txs = txsSDrain ∨ s.txs = txsSLatch := by
    generalize s.txs = c; revert c; decide
  rcases hc with h | h | h | h
  · cases hp : s.pins.chanAvail
    · exact .inl ⟨h, rfl, by simp [h]⟩
    · exact .inr (.inl ⟨h, rfl, by simp [h]⟩)
  · by_cases hq : s.fifo.length < s.cfg.qdepth
    · by_cases hp : s.pix.toNat + 1 < f.n
      · exact .inr (.inr (.inl ⟨h, hq, hp, by simp [h, hq, hp, State.qPush]⟩))
      · exact .inr (.inr (.inr (.inl ⟨h, hq, by omega, by simp [h, hq, hp, State.qPush]⟩)))
    · exact .inr (.inr (.inr (.inr (.inl ⟨h, by omega, by simp [h, hq]⟩))))
  · by_cases hq : s.fifo = [] ∧ s.est = estIdle
    · exact .inr (.inr (.inr (.inr (.inr (.inl ⟨h, hq.1, hq.2, by rw [if_neg, if_neg, if_pos, if_pos hq] <;> simp [h]⟩)))))
    · cases hp : s.pins.chanAvail
      · exact .inr (.inr (.inr (.inr (.inr (.inr (.inr (.inl
          ⟨h, hq, rfl, by rw [if_neg, if_neg, if_pos, if_neg hq] <;> simp [h]⟩)))))))
      · exact .inr (.inr (.inr (.inr (.inr (.inr (.inl
          ⟨h, hq, rfl, by rw [if_neg, if_neg, if_pos, if_neg hq] <;> simp [h]⟩))))))
  · by_cases hh : s.cfg.treset ≤ s.lcnt.toNat + 1
    · exact .inr (.inr (.inr (.inr (.inr (.inr (.inr (.inr (.inl ⟨h, hh, by simp [h, hh]⟩))))))))
    · exact .inr (.inr (.inr (.inr (.inr (.inr (.inr (.inr (.inr ⟨h, by omega, by simp [h, hh]⟩))))))))

@[simp] theorem frameFeed_n (s : State) : s.frameFeed.n = s.cfg.npix := rfl

@[simp] theorem frameFeed_wordAt (s : State) (k : Nat) :
    s.frameFeed.wordAt k = wordOf s.cfg.chorder s.col s.cfg.scale := rfl

/-! ### The bit engine -/

/-- Everything the bit engine's part of a tick can do (R148 to R151); the reserved code does nothing. -/
theorem engineTick_cases (s : State) :
    (s.pins.chanAvail = false ∧ s.engineTick = s) ∨
    (s.est = estIdle ∧ s.fifo = [] ∧ s.engineTick = s) ∨
    (s.pins.chanAvail = true ∧ s.est = estIdle ∧ ∃ w rest, s.fifo = w :: rest ∧ s.engineTick = s.engineLoad w rest) ∨
    (s.pins.chanAvail = true ∧ s.est = estHigh ∧ s.hiEngine ≤ s.esymt.toNat + 1 ∧
      s.engineTick = { s with dout := false, est := estLow, esymt := s.esymt + 1 }) ∨
    (s.pins.chanAvail = true ∧ s.est = estHigh ∧ s.esymt.toNat + 1 < s.hiEngine ∧
      s.engineTick = { s with esymt := s.esymt + 1 }) ∨
    (s.pins.chanAvail = true ∧ s.est = estLow ∧ s.esymt.toNat + 1 < s.cfg.total ∧
      s.engineTick = { s with esymt := s.esymt + 1 }) ∨
    (s.pins.chanAvail = true ∧ s.est = estLow ∧ s.cfg.total ≤ s.esymt.toNat + 1 ∧ 1 < s.ebit.toNat ∧
      s.engineTick = { s with
        eshr := s.eshr <<< 1, ebit := s.ebit - 1, esymt := 0, dout := true, est := estHigh }) ∨
    (s.pins.chanAvail = true ∧ s.est = estLow ∧ s.cfg.total ≤ s.esymt.toNat + 1 ∧ s.ebit.toNat ≤ 1 ∧ s.fifo = [] ∧
      s.engineTick = { s with est := estIdle }) ∨
    (s.pins.chanAvail = true ∧ s.est = estLow ∧ s.cfg.total ≤ s.esymt.toNat + 1 ∧ s.ebit.toNat ≤ 1 ∧
      ∃ w rest, s.fifo = w :: rest ∧ s.engineTick = s.engineLoad w rest) ∨
    (s.est = estReserved ∧ s.engineTick = s) := by
  cases hp : s.pins.chanAvail
  · exact .inl ⟨rfl, by simp [State.engineTick, State.enabled, hp]⟩
  right
  simp only [State.engineTick, State.enabled, hp, if_true]
  have hc : s.est = estIdle ∨ s.est = estHigh ∨ s.est = estLow ∨ s.est = estReserved := by
    generalize s.est = c; revert c; decide
  rcases hc with h | h | h | h
  · cases hf : s.fifo with
    | nil => exact .inl ⟨h, rfl, by simp [h, State.engineIdle, hf]⟩
    | cons w rest => exact .inr (.inl ⟨trivial, h, w, rest, rfl, by simp [h, State.engineIdle, hf]⟩)
  · by_cases hh : s.hiEngine ≤ s.esymt.toNat + 1
    · exact .inr (.inr (.inl ⟨trivial, h, hh, by simp [h, State.engineHigh, hh, State.driveLine]⟩))
    · exact .inr (.inr (.inr (.inl ⟨trivial, h, by omega, by simp [h, State.engineHigh, hh]⟩)))
  · by_cases hh : s.cfg.total ≤ s.esymt.toNat + 1
    · by_cases hb : 1 < s.ebit.toNat
      · exact .inr (.inr (.inr (.inr (.inr (.inl
          ⟨trivial, h, hh, hb, by simp [h, State.engineLow, hh, hb, State.engineStart]⟩)))))
      · cases hf : s.fifo with
        | nil => exact .inr (.inr (.inr (.inr (.inr (.inr (.inl
            ⟨trivial, h, hh, by omega, rfl, by simp [h, State.engineLow, hh, hb, hf]⟩))))))
        | cons w rest => exact .inr (.inr (.inr (.inr (.inr (.inr (.inr (.inl
            ⟨trivial, h, hh, by omega, w, rest, rfl, by simp [h, State.engineLow, hh, hb, hf]⟩)))))))
    · exact .inr (.inr (.inr (.inr (.inl ⟨trivial, h, by omega, by simp [h, State.engineLow, hh]⟩))))
  · exact .inr (.inr (.inr (.inr (.inr (.inr (.inr (.inr ⟨h, by simp [h]⟩)))))))

/-! ### What the tick-level operations leave unchanged -/

/-- A tick in `TX` writes none of the loop's registers, the engine's, the ports, the wire or the configuration. -/
theorem txTick_frame (s : State) (f : Feed) :
    (s.txTick f).cfg = s.cfg ∧ (s.txTick f).phase = s.phase ∧ (s.txTick f).phl = s.phl ∧
    (s.txTick f).col = s.col ∧ (s.txTick f).ftmr = s.ftmr ∧ (s.txTick f).tcnt = s.tcnt ∧
    (s.txTick f).est = s.est ∧ (s.txTick f).eshr = s.eshr ∧ (s.txTick f).ebit = s.ebit ∧
    (s.txTick f).esymt = s.esymt ∧ (s.txTick f).pins = s.pins ∧ (s.txTick f).script = s.script ∧
    (s.txTick f).wire = s.wire ∧ (s.txTick f).ret = s.ret := by
  unfold State.txTick
  split
  · rcases timerTick_cases s f with ⟨_, _, h⟩ | ⟨_, _, h⟩ | ⟨_, _, h⟩ | ⟨_, _, h⟩ | ⟨_, _, h⟩ | ⟨_, _, _, h⟩ |
      ⟨_, _, _, _, h⟩ | ⟨_, _, _, _, h⟩ | ⟨_, _, h⟩ | ⟨_, _, h⟩ <;> simp [h]
  · have hb : s.blocked = s.raiseHalt causeTxFail ∨ s.blocked = { s with blk := s.blk + 1 } := by
      rcases blocked_cases s with ⟨_, h⟩ | ⟨_, h⟩ <;> simp [h]
    rcases smTick_cases s f with ⟨_, _, h⟩ | ⟨_, _, h⟩ | ⟨_, _, _, h⟩ | ⟨_, _, _, h⟩ | ⟨_, _, h⟩ | ⟨_, _, _, h⟩ |
      ⟨_, _, _, h⟩ | ⟨_, _, _, h⟩ | ⟨_, _, h⟩ | ⟨_, _, h⟩ <;> simp [h] <;>
      rcases hb with hb | hb <;> simp [hb]

/-- The controller's part of the queue is the queue, or the queue with one word at its tail (R75). -/
theorem smTick_fifo (s : State) (f : Feed) :
    (s.smTick f).fifo =
      s.fifo ++ (if s.txs = txsSPush ∧ s.fifo.length < s.cfg.qdepth then [f.wordAt s.pix.toNat] else []) := by
  have hb : s.blocked.fifo = s.fifo := by
    rcases blocked_cases s with ⟨_, h⟩ | ⟨_, h⟩ <;> simp [h]
  rcases smTick_cases s f with ⟨h', _, h⟩ | ⟨h', _, h⟩ | ⟨h', hq, _, h⟩ | ⟨h', hq, _, h⟩ | ⟨h', hq, h⟩ |
    ⟨h', _, _, h⟩ | ⟨h', _, _, h⟩ | ⟨h', _, _, h⟩ | ⟨h', _, h⟩ | ⟨h', _, h⟩ <;> simp [h, h', hb] <;> omega

/-- The engine's part of the queue is the queue, or the queue without its head (R75). -/
theorem engineTick_fifo (s : State) :
    s.engineTick.fifo =
      if s.pins.chanAvail = true ∧
          (s.est = estIdle ∨ (s.est = estLow ∧ s.cfg.total ≤ s.esymt.toNat + 1 ∧ s.ebit.toNat ≤ 1))
        then s.fifo.tail else s.fifo := by
  rcases engineTick_cases s with ⟨hp, h⟩ | ⟨he, hf, h⟩ | ⟨hp, he, w, rest, hf, h⟩ | ⟨hp, he, _, h⟩ |
    ⟨hp, he, _, h⟩ | ⟨hp, he, ht, h⟩ | ⟨hp, he, ht, hb, h⟩ | ⟨hp, he, ht, hb, hf, h⟩ |
    ⟨hp, he, ht, hb, w, rest, hf, h⟩ | ⟨he, h⟩ <;> simp_all

/-- The engine's part of a tick depends on the configuration, the queue, the line, the engine's own registers and
`chan_avail` alone (R151). -/
theorem engineTick_agree {s s' : State} (hc : s'.cfg = s.cfg) (hf : s'.fifo = s.fifo) (hd : s'.dout = s.dout)
    (he : s'.est = s.est) (hw : s'.eshr = s.eshr) (hb : s'.ebit = s.ebit) (hy : s'.esymt = s.esymt)
    (hp : s'.pins.chanAvail = s.pins.chanAvail) :
    s'.engineTick.dout = s.engineTick.dout ∧ s'.engineTick.est = s.engineTick.est ∧
    s'.engineTick.eshr = s.engineTick.eshr ∧ s'.engineTick.ebit = s.engineTick.ebit ∧
    s'.engineTick.esymt = s.engineTick.esymt ∧ s'.engineTick.fifo = s.engineTick.fifo := by
  cases s
  cases s'
  subst hc hf hd he hw hb hy
  simp only [State.engineTick, State.enabled, State.engineIdle, State.engineHigh, State.engineLow, State.hiEngine] at *
  rw [hp]
  repeat' split
  all_goals simp_all [State.engineLoad, State.engineStart, State.driveLine]
  all_goals split <;> simp

end Machine
end Sys2Proof
end

