-- ==== Sys2Proof/Laws/PerInstr.lean ====
section
/-!
SUPPORT. What holds of every operation as syntax, one lemma per constructor: its encoding carries the format the table
gives it (spec/30_encoding.md R101), under every configuration.
-/
namespace Sys2Proof.Laws.EncodesInFormat

/-- The encoding of an operation carries the operation's format. -/
def Statement (i : Instr) : Prop := ∀ cfg : Config, (encode cfg i).format = i.format

theorem initchk : Statement .initchk := fun _ => rfl
theorem rdphase : Statement .rdphase := fun _ => rfl
theorem seq : Statement .seq := fun _ => rfl
theorem tx : Statement .tx := fun _ => rfl
theorem advance : Statement .advance := fun _ => rfl
theorem waitframe : Statement .waitframe := fun _ => rfl
theorem halt : Statement .halt := fun _ => rfl
theorem wheel : Statement .wheel := fun _ => rfl
theorem hsv : Statement .hsv := fun _ => rfl
theorem tStart : Statement .tStart := fun _ => rfl
theorem tHigh : Statement .tHigh := fun _ => rfl
theorem tLow : Statement .tLow := fun _ => rfl
theorem tLatch : Statement .tLatch := fun _ => rfl
theorem sStart : Statement .sStart := fun _ => rfl
theorem sPush : Statement .sPush := fun _ => rfl
theorem sDrain : Statement .sDrain := fun _ => rfl
theorem sLatch : Statement .sLatch := fun _ => rfl
theorem eIdle : Statement .eIdle := fun _ => rfl
theorem eHigh : Statement .eHigh := fun _ => rfl
theorem eLow : Statement .eLow := fun _ => rfl
theorem bit0 : Statement .bit0 := fun _ => rfl
theorem bit1 : Statement .bit1 := fun _ => rfl
theorem latch : Statement .latch := fun _ => rfl
theorem pixel (w : Word24) : Statement (.pixel w) := fun _ => rfl
theorem scale (c sc : Byte) : Statement (.scale c sc) := fun _ => rfl
theorem transmit (colors : List Color) (sc : Byte) : Statement (.transmit colors sc) := fun _ => rfl

end Sys2Proof.Laws.EncodesInFormat
end

