-- ==== Sys2Proof/Laws/Step.lean ====
section
/-!
SUPPORT. What a step can do, said once: the controller's part in closed form, the equation of a step in each strategy,
the inversion lemma, and runs of several steps.
-/
namespace Sys2Proof.Machine

/-! ### Outcomes of the one-tick operations -/

/-- The controller's part of a tick, by `CST`. -/
def State.ctlPart (s : State) : State :=
  if s.cst = cstInit then (if s.pins.initOk then s.goTo cstRead else s.raiseHalt causeInitFail)
  else if s.cst = cstRead then ({ s with phl := s.phase } : State).goTo cstSeq
  else if s.cst = cstSeq then ({ s with col := sequencer s.cfg s.phl, txs := txsStart } : State).goTo cstTx
  else if s.cst = cstTx then s.txTick s.frameFeed
  else if s.cst = cstAdv then
    ({ s with phase := s.phase + 1, ftmr := BitVec.ofNat 32 s.cfg.frameTicks } : State).goTo cstWait
  else if s.cst = cstWait then (if s.ftmr.toNat ≤ 1 then s.goTo cstRead else { s with ftmr := s.ftmr - 1 })
  else s

/-- The seven legal `CST` codes. -/
theorem cst_cases (c : BitVec 3) (h : c ≠ cstReserved) :
    c = cstInit ∨ c = cstRead ∨ c = cstSeq ∨ c = cstTx ∨ c = cstAdv ∨ c = cstWait ∨ c = cstHalt := by
  revert h; revert c; decide

/-- The four `TXS` codes, by their Timer-Paced names. -/
theorem txs_cases (c : BitVec 2) : c = txsStart ∨ c = txsTHigh ∨ c = txsTLow ∨ c = txsTLatch := by
  revert c; decide

/-- The three legal `EST` codes. -/
theorem est_cases (c : BitVec 2) (h : c ≠ estReserved) : c = estIdle ∨ c = estHigh ∨ c = estLow := by
  revert h; revert c; decide

/-- The operation of a legal `CST` code does the controller's part. -/
theorem exec_of_decodeCst {s : State} {i : Instr} (hwf : s.cfg.wf = true) (h : decodeCst s.cst = .ok i) :
    exec i s = .next s.ctlPart := by
  have hc : s.cst ≠ cstReserved := fun hc => by rw [hc] at h; cases h
  rcases cst_cases s.cst hc with hc | hc | hc | hc | hc | hc | hc <;>
    (rw [hc] at h; cases h; simp [State.ctlPart, hc, exec, execInitchk, execRdphase, execSeq, execTx, execAdvance,
      execWaitframe, execHalt, underWf_ok hwf])

/-- A `CST` code that is not reserved decodes. -/
theorem decodeCst_ok {c : BitVec 3} (h : c ≠ cstReserved) : ∃ i, decodeCst c = .ok i := by
  rcases cst_cases c h with h | h | h | h | h | h | h <;> subst h <;> exact ⟨_, rfl⟩

/-- The reserved `CST` code is rejected. -/
theorem decodeCst_reserved : decodeCst cstReserved = .error .reservedCst := rfl

/-- The operation of a legal `EST` code does the engine's part. -/
theorem exec_of_decodeEst {s : State} {j : Instr} (hwf : s.cfg.wf = true) (h : decodeEst s.est = .ok j) :
    exec j s = .next s.engineTick := by
  have he : s.est ≠ estReserved := fun he => by rw [he] at h; cases h
  rcases est_cases s.est he with he | he | he <;>
    (rw [he] at h; cases h; simp [State.engineTick, he, exec, execEIdle, execEHigh, execELow, underWf_ok hwf])

/-- An `EST` code that is not reserved decodes. -/
theorem decodeEst_ok {c : BitVec 2} (h : c ≠ estReserved) : ∃ i, decodeEst c = .ok i := by
  rcases est_cases c h with h | h | h <;> subst h <;> exact ⟨_, rfl⟩

/-- The reserved `EST` code is rejected. -/
theorem decodeEst_reserved : decodeEst estReserved = .error .reservedEst := rfl

/-! ### One step -/

/-- The state a step without reset leads to. -/
def State.tickState (s : State) : State :=
  match s.cfg.strategy with
  | .timer => s.endTick s.ctlPart
  | .sm => s.endTick (s.joint s.ctlPart s.engineTick)

/-- When a step without reset has a next state: a well-formed configuration and no reserved code. -/
abbrev State.Ready (s : State) : Prop :=
  s.cfg.wf = true ∧ s.cst ≠ cstReserved ∧ s.haltCause ≠ causeReserved ∧
    (s.cfg.strategy = .sm → s.est ≠ estReserved)

theorem step_reset {s : State} (hwf : s.cfg.wf = true) (hr : s.pins.rst = true) : step s = .next s.resetTick := by
  simp [step, hwf, hr]

theorem step_tick {s : State} (h : s.Ready) (hr : s.pins.rst = false) : step s = .next s.tickState := by
  obtain ⟨hwf, hc, hh, he⟩ := h
  obtain ⟨i, hi⟩ := decodeCst_ok hc
  have hx := exec_of_decodeCst hwf hi
  cases hs : s.cfg.strategy with
  | timer =>
    simp [step, hwf, hr, State.fetch, hh, State.ctlCode, decode, hi, hs, hx, State.tickOf, State.tickState]
  | sm =>
    obtain ⟨j, hj⟩ := decodeEst_ok (he hs)
    have hy := exec_of_decodeEst hwf hj
    simp [step, hwf, hr, State.fetch, hh, State.ctlCode, decode, hi, hj, hs, hx, hy, State.tickOf, State.tickState]

/-- Everything a step that has a next state can have done. -/
theorem step_cases {s t : State} (h : step s = .next t) :
    (s.cfg.wf = true ∧ s.pins.rst = true ∧ t = s.resetTick) ∨
    (s.Ready ∧ s.pins.rst = false ∧ t = s.tickState) := by
  by_cases hwf : s.cfg.wf = true
  · cases hr : s.pins.rst with
    | true => rw [step_reset hwf hr] at h; cases h; exact .inl ⟨hwf, rfl, rfl⟩
    | false =>
      right
      by_cases hready : s.Ready
      · rw [step_tick hready hr] at h; cases h; exact ⟨hready, rfl, rfl⟩
      · exfalso
        simp only [step, hwf, hr] at h
        simp only [State.fetch, State.ctlCode, decode] at h
        by_cases hh : s.haltCause = causeReserved
        · simp [hh] at h
        by_cases hc : s.cst = cstReserved
        · simp [hh, hc, decodeCst_reserved] at h
        obtain ⟨i, hi⟩ := decodeCst_ok hc
        cases hs : s.cfg.strategy with
        | timer => exact hready ⟨hwf, hc, hh, by simp [hs]⟩
        | sm =>
          by_cases he : s.est = estReserved
          · simp [hh, hi, hs, he, decodeEst_reserved] at h
          · exact hready ⟨hwf, hc, hh, fun _ => he⟩
  · simp [step, hwf] at h

/-! ### The fields of a tick's next state that no operation owns -/

theorem ctlPart_cfg (s : State) : s.ctlPart.cfg = s.cfg := by
  unfold State.ctlPart
  repeat' split
  all_goals first | rfl | exact (txTick_frame s _).1

@[simp] theorem tickState_cfg (s : State) : s.tickState.cfg = s.cfg := by
  unfold State.tickState; split <;> simp [ctlPart_cfg]

@[simp] theorem tickState_tcnt (s : State) : s.tickState.tcnt = s.tcnt + 1 := by
  unfold State.tickState; split <;> simp

@[simp] theorem tickState_pins (s : State) : s.tickState.pins = s.pinsAt 1 := by
  unfold State.tickState; split <;> simp

@[simp] theorem tickState_script (s : State) : s.tickState.script = s.script.drop 1 := by
  unfold State.tickState; split <;> simp

@[simp] theorem tickState_wire (s : State) : s.tickState.wire = s.wire ++ [s.dout] := by
  unfold State.tickState; split <;> simp

/-! The registers the controller owns are what its part of the tick left. -/

@[simp] theorem tickState_phase (s : State) : s.tickState.phase = s.ctlPart.phase := by
  unfold State.tickState; split <;> rfl

@[simp] theorem tickState_phl (s : State) : s.tickState.phl = s.ctlPart.phl := by
  unfold State.tickState; split <;> rfl

@[simp] theorem tickState_col (s : State) : s.tickState.col = s.ctlPart.col := by
  unfold State.tickState; split <;> rfl

@[simp] theorem tickState_cst (s : State) : s.tickState.cst = s.ctlPart.cst := by
  unfold State.tickState; split <;> rfl

@[simp] theorem tickState_txs (s : State) : s.tickState.txs = s.ctlPart.txs := by
  unfold State.tickState; split <;> rfl

@[simp] theorem tickState_pix (s : State) : s.tickState.pix = s.ctlPart.pix := by
  unfold State.tickState; split <;> rfl

@[simp] theorem tickState_ftmr (s : State) : s.tickState.ftmr = s.ctlPart.ftmr := by
  unfold State.tickState; split <;> rfl

@[simp] theorem tickState_shr (s : State) : s.tickState.shr = s.ctlPart.shr := by
  unfold State.tickState; split <;> rfl

@[simp] theorem tickState_bitcnt (s : State) : s.tickState.bitcnt = s.ctlPart.bitcnt := by
  unfold State.tickState; split <;> rfl

@[simp] theorem tickState_tstart (s : State) : s.tickState.tstart = s.ctlPart.tstart := by
  unfold State.tickState; split <;> rfl

@[simp] theorem tickState_lcnt (s : State) : s.tickState.lcnt = s.ctlPart.lcnt := by
  unfold State.tickState; split <;> rfl

@[simp] theorem tickState_blk (s : State) : s.tickState.blk = s.ctlPart.blk := by
  unfold State.tickState; split <;> rfl

@[simp] theorem tickState_crit (s : State) : s.tickState.crit = s.ctlPart.crit := by
  unfold State.tickState; split <;> rfl

@[simp] theorem tickState_haltCause (s : State) : s.tickState.haltCause = s.ctlPart.haltCause := by
  unfold State.tickState; split <;> rfl

@[simp] theorem tickState_ret (s : State) : s.tickState.ret = s.ctlPart.ret := by
  unfold State.tickState; split <;> rfl

/-! The line, the queue and the engine's registers, by strategy. -/

theorem tickState_timer {s : State} (h : s.cfg.strategy = .timer) : s.tickState = s.endTick s.ctlPart := by
  simp only [State.tickState, h]

theorem tickState_sm {s : State} (h : s.cfg.strategy = .sm) :
    s.tickState = s.endTick (s.joint s.ctlPart s.engineTick) := by
  simp only [State.tickState, h]

theorem ctlPart_tx {s : State} (h : s.cst = cstTx) : s.ctlPart = s.txTick s.frameFeed := by
  simp [State.ctlPart, h]

/-- Outside `TX` the controller writes neither the line nor the queue, and no register of the engine ever. -/
theorem ctlPart_frame (s : State) :
    s.ctlPart.est = s.est ∧ s.ctlPart.eshr = s.eshr ∧ s.ctlPart.ebit = s.ebit ∧ s.ctlPart.esymt = s.esymt ∧
    s.ctlPart.ret = s.ret ∧ (s.cst ≠ cstTx → s.ctlPart.dout = s.dout ∧ s.ctlPart.fifo = s.fifo) := by
  unfold State.ctlPart
  have := txTick_frame s s.frameFeed
  repeat' split
  all_goals simp_all

/-! ### Input samples over several ticks -/

theorem pinsAt_zero (s : State) : s.pinsAt 0 = s.pins := by
  simp only [State.pinsAt]; cases s.script <;> rfl

theorem pinsAt_drop (p : Pins) (l : List Pins) (k : Nat) :
    Machine.pinsAt (Machine.pinsAt p l 1) (l.drop 1) k = Machine.pinsAt p l (k + 1) := by
  cases l with
  | nil => cases k <;> simp [Machine.pinsAt]
  | cons q qs => cases k <;> cases qs <;> simp [Machine.pinsAt]

/-- The samples a tick later are the samples shifted by one. -/
theorem pinsAt_tickState (s : State) (k : Nat) : s.tickState.pinsAt k = s.pinsAt (k + 1) := by
  simp only [State.pinsAt, tickState_pins, tickState_script]
  exact pinsAt_drop _ _ _

/-- The samples a reset tick later are the samples shifted by one. -/
theorem pinsAt_resetTick (s : State) (k : Nat) : s.resetTick.pinsAt k = s.pinsAt (k + 1) := by
  simp only [State.pinsAt, State.resetTick_pins, State.resetTick_script]
  exact pinsAt_drop _ _ _

theorem noReset_succ {s : State} {n : Nat} (h : s.NoResetFor (n + 1)) :
    s.pins.rst = false ∧ s.tickState.NoResetFor n := by
  refine ⟨?_, fun k hk => ?_⟩
  · simpa [pinsAt_zero] using h 0 (by omega)
  · rw [pinsAt_tickState]; exact h (k + 1) (by omega)

theorem channel_succ {s : State} {n : Nat} (h : s.ChannelFor (n + 1)) :
    s.pins.chanAvail = true ∧ s.tickState.ChannelFor n := by
  refine ⟨?_, fun k hk => ?_⟩
  · simpa [pinsAt_zero] using h 0 (by omega)
  · rw [pinsAt_tickState]; exact h (k + 1) (by omega)

/-! ### Several steps -/

theorem run_zero (s : State) : Host.Core.run core 0 s = .next s := rfl

theorem run_succ {s t : State} (n : Nat) (h : step s = .next t) :
    Host.Core.run core (n + 1) s = Host.Core.run core n t := by
  have h' : core.step s = .next t := h
  simp only [Host.Core.run, h']

/-- Steps compose. -/
theorem run_add {s t : State} (m n : Nat) (h : Host.Core.run core m s = .next t) :
    Host.Core.run core (m + n) s = Host.Core.run core n t := by
  induction m generalizing s with
  | zero => cases h; rw [Nat.zero_add]
  | succ m ih =>
    rw [Nat.succ_add]
    cases hs : step s with
    | next u => rw [run_succ _ hs] at h ⊢; exact ih h
    | fault r =>
      have hs' : core.step s = .fault r := hs
      simp [Host.Core.run, hs'] at h
    | refused r =>
      have hs' : core.step s = .refused r := hs
      simp [Host.Core.run, hs'] at h

end Sys2Proof.Machine
end

