-- ==== Sys2Proof/Laws/Run.lean ====
section
/-!
SUPPORT. Runs inside `TX`: the state after some ticks, the relation `TxRun` that the steps of the machine
(`TxRun.run`) and the call `TRANSMIT` (`TxRun.transmitRun`) both follow, and the waveforms of words.
-/
namespace Sys2Proof.Machine

/-- The state `l.length` ticks later, with `l` the levels the line had in them and no register written. -/
def State.after (s : State) (l : List Bool) : State := { s.passTicks l.length with wire := s.wire ++ l }

/-! ### Ticks gone by -/

theorem pinsAt_add (p : Pins) (l : List Pins) (a b : Nat) :
    Machine.pinsAt (Machine.pinsAt p l a) (l.drop a) b = Machine.pinsAt p l (a + b) := by
  induction a generalizing p l with
  | zero => simp [Machine.pinsAt]
  | succ a ih =>
    cases l with
    | nil => cases b <;> simp [Machine.pinsAt]
    | cons q qs => rw [Nat.succ_add]; simpa [Machine.pinsAt] using ih q qs

theorem after_nil (s : State) : s.after [] = s := by
  cases s with
  | mk => simp [State.after, State.passTicks, State.pinsAt]; simp [Machine.pinsAt]

theorem after_append (s : State) (a b : List Bool) : (s.after a).after b = s.after (a ++ b) := by
  simp only [State.after, State.passTicks, State.pinsAt, pinsAt_add, List.drop_drop, List.append_assoc,
    List.length_append]
  congr 1
  simp [BitVec.ofNat_add, BitVec.add_assoc]

theorem noReset_after {s : State} {l : List Bool} {n : Nat} (h : s.NoResetFor (l.length + n)) :
    (s.after l).NoResetFor n := by
  intro k hk
  have := h (l.length + k) (by omega)
  simpa [State.after, State.pinsAt, State.passTicks, pinsAt_add] using this

theorem channel_after {s : State} {l : List Bool} {n : Nat} (h : s.ChannelFor (l.length + n)) :
    (s.after l).ChannelFor n := by
  intro k hk
  have := h (l.length + k) (by omega)
  simpa [State.after, State.pinsAt, State.passTicks, pinsAt_add] using this

/-- `n` ticks in `TX` without reset lead from `s` to `t`. -/
inductive TxRun (f : Feed) : Nat → State → State → Prop
  | done (s : State) : TxRun f 0 s s
  | tick {n : Nat} {s t : State} (hc : s.cst = cstTx) (hr : s.pins.rst = false)
      (h : TxRun f n (s.serializerTick f) t) : TxRun f (n + 1) s t

theorem TxRun.trans {f : Feed} {m n : Nat} {s t u : State} (h : TxRun f m s t) (h' : TxRun f n t u) :
    TxRun f (m + n) s u := by
  induction h with
  | done => simpa using h'
  | tick hc hr _ ih => rw [Nat.succ_add]; exact .tick hc hr (ih h')

theorem TxRun.transmitRun {f : Feed} {n : Nat} {s t : State} (h : TxRun f n s t) (m : Nat) :
    State.transmitRun f (n + m) s = State.transmitRun f m t := by
  induction h with
  | done => simp
  | tick hc _ _ ih => rw [Nat.succ_add, State.transmitRun, if_pos hc, ih]

/-- A transmit that has left `TX` stays where it is. -/
theorem transmitRun_left {f : Feed} {s : State} (h : s.cst ≠ cstTx) (m : Nat) : State.transmitRun f m s = s := by
  cases m <;> simp [State.transmitRun, h]

theorem serializerTick_timer {s : State} {f : Feed} (hs : s.cfg.strategy = .timer) (hr : s.pins.rst = false) :
    s.serializerTick f = s.endTick (s.timerTick f) := by
  simp only [State.serializerTick, hr, hs, State.txTick]; rfl

theorem serializerTick_sm {s : State} {f : Feed} (hs : s.cfg.strategy = .sm) (hr : s.pins.rst = false) :
    s.serializerTick f = s.endTick (s.joint (s.smTick f) s.engineTick) := by
  simp only [State.serializerTick, hr, hs, State.txTick]; rfl

/-- In `TX` a step is the serializer's tick on the frame's sequence. -/
theorem tickState_tx {s : State} (hr : s.pins.rst = false) (hc : s.cst = cstTx) :
    s.tickState = s.serializerTick s.frameFeed := by
  cases hs : s.cfg.strategy
  · rw [serializerTick_timer hs hr, tickState_timer hs, ctlPart_tx hc]; simp only [State.txTick, hs]
  · rw [serializerTick_sm hs hr, tickState_sm hs, ctlPart_tx hc]; simp only [State.txTick, hs]

/-- No tick in `TX` produces a reserved cause. -/
theorem txTick_haltCause (s : State) (f : Feed) :
    (s.txTick f).haltCause = s.haltCause ∨ (s.txTick f).haltCause = causeTxFail := by
  unfold State.txTick
  split
  · rcases timerTick_cases s f with ⟨_, _, h⟩ | ⟨_, _, h⟩ | ⟨_, _, h⟩ | ⟨_, _, h⟩ | ⟨_, _, h⟩ | ⟨_, _, _, h⟩ |
      ⟨_, _, _, _, h⟩ | ⟨_, _, _, _, h⟩ | ⟨_, _, h⟩ | ⟨_, _, h⟩ <;> simp [h]
  · have hb : s.blocked = s.raiseHalt causeTxFail ∨ s.blocked = { s with blk := s.blk + 1 } := by
      rcases blocked_cases s with ⟨_, h⟩ | ⟨_, h⟩ <;> simp [h]
    rcases smTick_cases s f with ⟨_, _, h⟩ | ⟨_, _, h⟩ | ⟨_, _, _, h⟩ | ⟨_, _, _, h⟩ | ⟨_, _, h⟩ | ⟨_, _, _, h⟩ |
      ⟨_, _, _, h⟩ | ⟨_, _, _, h⟩ | ⟨_, _, h⟩ | ⟨_, _, h⟩ <;> simp [h] <;>
      rcases hb with hb | hb <;> simp [hb]

/-- The engine's part of a tick produces no reserved code. -/
theorem engineTick_est {s : State} (h : s.est ≠ estReserved) : s.engineTick.est ≠ estReserved := by
  rcases engineTick_cases s with ⟨_, e⟩ | ⟨_, _, e⟩ | ⟨_, _, _, _, _, e⟩ | ⟨_, _, _, e⟩ | ⟨_, _, _, e⟩ | ⟨_, _, _, e⟩ |
    ⟨_, _, _, _, e⟩ | ⟨_, _, _, _, _, e⟩ | ⟨_, _, _, _, _, _, _, e⟩ | ⟨_, e⟩ <;> simp_all

/-- What a tick in `TX` keeps: the configuration, the colour, the legal codes. -/
theorem serializerTick_keeps {s : State} {f : Feed} (hr : s.pins.rst = false) :
    (s.serializerTick f).cfg = s.cfg ∧ (s.serializerTick f).col = s.col ∧
    (s.haltCause ≠ causeReserved → (s.serializerTick f).haltCause ≠ causeReserved) ∧
    (s.est ≠ estReserved → (s.serializerTick f).est ≠ estReserved) := by
  have hf := txTick_frame s f
  have hh := txTick_haltCause s f
  have hx := txTick_haltCause s f
  cases hs : s.cfg.strategy
  · have e : s.timerTick f = s.txTick f := by simp only [State.txTick, hs]
    rw [serializerTick_timer hs hr, e]
    refine ⟨by simp [hf], by simp [hf], fun h => ?_, fun h => by simpa [hf] using h⟩
    rcases hh with hh | hh <;> simp_all
  · have e : s.smTick f = s.txTick f := by simp only [State.txTick, hs]
    rw [serializerTick_sm hs hr, e]
    refine ⟨by simp [hf], by simp [hf], fun h => ?_, fun h => by simpa using engineTick_est h⟩
    rcases hh with hh | hh <;> simp_all

theorem frameFeed_congr {s t : State} (hc : t.cfg = s.cfg) (hk : t.col = s.col) : t.frameFeed = s.frameFeed := by
  simp only [State.frameFeed, hc, hk]

/-- Ticks in `TX` on the frame's sequence are steps of the machine. -/
theorem TxRun.run {f : Feed} {n : Nat} {s t : State} (h : TxRun f n s t) (hf : f = s.frameFeed) (hwf : s.cfg.wf = true)
    (hh : s.haltCause ≠ causeReserved) (he : s.cfg.strategy = .sm → s.est ≠ estReserved) : Host.Core.run core n s = .next t := by
  induction h with
  | done => rfl
  | @tick n s t hc hr h ih =>
    subst hf
    have k := serializerTick_keeps (f := s.frameFeed) hr
    have hstep : step s = .next (s.serializerTick s.frameFeed) := by
      rw [step_tick ⟨hwf, by simp [hc], hh, he⟩ hr, tickState_tx hr hc]
    rw [run_succ n hstep]
    exact ih (frameFeed_congr k.1 k.2.1).symm (by rw [k.1]; exact hwf) (k.2.2.1 hh) fun hs => k.2.2.2 (he (k.1 ▸ hs))

theorem endTick_self (s : State) : s.endTick s = s.after [s.dout] := rfl

@[simp] theorem after_cfg (s : State) (l : List Bool) : (s.after l).cfg = s.cfg := rfl

theorem elapsed_after (s : State) (l : List Bool) : (s.after l).elapsed = s.elapsed + BitVec.ofNat 32 l.length := by
  simp only [State.after, State.elapsed, State.passTicks]
  rw [BitVec.sub_eq_add_neg, BitVec.sub_eq_add_neg, BitVec.add_assoc, BitVec.add_assoc, BitVec.add_comm (BitVec.ofNat 32 _)]

theorem noReset_now {s : State} {n : Nat} (h : s.NoResetFor n) (hn : 0 < n) : s.pins.rst = false := by
  simpa [pinsAt_zero] using h 0 hn

theorem channel_now {s : State} {n : Nat} (h : s.ChannelFor n) (hn : 0 < n) : s.pins.chanAvail = true := by
  simpa [pinsAt_zero] using h 0 hn

theorem noReset_weaken {s : State} {m n : Nat} (h : s.NoResetFor n) (hm : m ≤ n) : s.NoResetFor m :=
  fun k hk => h k (by omega)

theorem wordBits_length (n : Nat) (w : Word24) : (wordBits n w).length = n := by
  induction n generalizing w with
  | zero => rfl
  | succ n ih => simp [wordBits, ih]

theorem wordWave_length {cfg : Config} (h : cfg.wf = true) (n : Nat) (w : Word24) :
    ((wordBits n w).flatMap cfg.bitWave).length = n * cfg.total := by
  induction n generalizing w with
  | zero => simp [wordBits]
  | succ n ih =>
    simp only [wordBits, List.flatMap_cons, List.length_append, ih, Config.bitWave_length h]; ring

/-- The waveform of a word's 24 bits is that of 23 bits and the last one. -/
theorem pixelWave_split (cfg : Config) (w : Word24) :
    cfg.pixelWave w = (wordBits 23 w).flatMap cfg.bitWave ++ cfg.bitWave ((w <<< 23).getLsbD 23) := by
  have : ∀ (k : Nat) (w : Word24), wordBits (k + 1) w = wordBits k w ++ [(w <<< k).getLsbD 23] := by
    intro k
    induction k with
    | zero => intro w; simp [wordBits]
    | succ k ih =>
      intro w
      rw [wordBits, ih (w <<< 1), wordBits, ← BitVec.shiftLeft_add, Nat.add_comm 1 k]; rfl
  rw [Config.pixelWave, this 23 w]
  simp

/-- The words a transmit sends, in order. -/
def Feed.words (f : Feed) : List Word24 := (List.range f.n).map f.wordAt

end Sys2Proof.Machine
end

