-- ==== Sys2Proof/Laws/SmRun.lean ====
section
/-!
SUPPORT. Runs of the State-Machine strategy: the engine's symbols and words, the controller that feeds it, a whole
transmit.
-/
namespace Sys2Proof.Machine

/-- The controller's registers a State-Machine transmit writes. -/
structure SmCtl where
  cst : BitVec 3
  txs : BitVec 2
  pix : BitVec 4
  blk : Word32
  lcnt : Word32

/-- The line and the bit engine's registers. -/
structure SmEng where
  dout : Bool
  est : BitVec 2
  eshr : Word24
  ebit : BitVec 5
  esymt : Word32

/-- The state when the levels `l` have gone by since `s`, the two agents' registers and the queue as given. -/
def State.smAt (s : State) (l : List Bool) (c : SmCtl) (e : SmEng) (q : List Word24) : State :=
  { s.after l with
    cst := c.cst, txs := c.txs, pix := c.pix, blk := c.blk, lcnt := c.lcnt
    dout := e.dout, est := e.est, eshr := e.eshr, ebit := e.ebit, esymt := e.esymt
    fifo := q }

theorem smAt_pins (s : State) (l : List Bool) (c : SmCtl) (e : SmEng) (q : List Word24) :
    (s.smAt l c e q).pins = s.pinsAt l.length := rfl

/-- The two agents' parts of a tick put together. -/
theorem smAt_tick {f : Feed} {s : State} {l : List Bool} {c c' : SmCtl} {e e' : SmEng} {q q' p : List Word24}
    (hs : s.cfg.strategy = .sm) (hc : c.cst = cstTx) (hr : (s.pinsAt l.length).rst = false)
    (h1 : (s.smAt l c e q).smTick f = s.smAt l c' e (q ++ p))
    (h2 : (s.smAt l c e q).engineTick = s.smAt l c e' q') :
    TxRun f 1 (s.smAt l c e q) (s.smAt (l ++ [e.dout]) c' e' (q' ++ p)) := by
  have h : TxRun f 1 (s.smAt l c e q) _ := .tick hc hr (.done _)
  rw [serializerTick_sm (by exact hs) hr, h1, h2] at h
  have e : (s.smAt l c e q).endTick ((s.smAt l c e q).joint (s.smAt l c' e (q ++ p)) (s.smAt l c e' q')) =
      s.smAt (l ++ [e.dout]) c' e' (q' ++ p) := by
    rw [State.smAt, State.smAt, State.smAt, State.smAt, ← after_append]
    simp only [State.joint, State.endTick, List.drop_left]
    rfl
  rwa [e] at h

/-! ### The bit engine -/

/-- The engine in tick `j` of the symbol of `w`'s bit 23, with `n` bits left. -/
structure SmEng.Sends (cfg : Config) (w : Word24) (n : Nat) (j : Nat) (e : SmEng) : Prop where
  est : e.est = if j < cfg.hiTicks (w.getLsbD 23) then estHigh else estLow
  dout : e.dout = decide (j < cfg.hiTicks (w.getLsbD 23))
  eshr : e.eshr = w
  ebit : e.ebit.toNat = n
  esymt : e.esymt.toNat = j

/-- The engine loads a word. -/
theorem sends_load {cfg : Config} (hwf : cfg.wf = true) (w : Word24) :
    SmEng.Sends cfg w 24 0 ⟨true, estHigh, w, 24, 0⟩ := by
  have := (Config.hiTicks_bounds hwf (w.getLsbD 23)).1
  have h : 0 < cfg.hiTicks (w.getLsbD 23) := this
  exact ⟨by rw [if_pos h], (decide_eq_true h).symm, rfl, rfl, rfl⟩

section
variable {s : State} {l : List Bool} {c : SmCtl} {e : SmEng} {q : List Word24} {w : Word24} {n j : Nat}

/-- A tick inside a symbol. -/
theorem engine_mid (hwf : s.cfg.wf = true) (ha : (s.pinsAt l.length).chanAvail = true) (h : SmEng.Sends s.cfg w n j e)
    (hj : j + 1 < s.cfg.total) :
    ∃ e', (s.smAt l c e q).engineTick = s.smAt l c e' q ∧ SmEng.Sends s.cfg w n (j + 1) e' := by
  have hT := Config.wf_bit hwf
  have hb := Config.hiTicks_bounds hwf (w.getLsbD 23)
  have hp : (s.smAt l c e q).pins.chanAvail = true := ha
  have hes : (e.esymt + 1).toNat = j + 1 := by have := h.esymt; bv_omega
  by_cases hlt : j < s.cfg.hiTicks (w.getLsbD 23)
  · have hest : (s.smAt l c e q).est = estHigh := by show e.est = _; rw [h.est, if_pos hlt]
    have hhi : (s.smAt l c e q).hiEngine = s.cfg.hiTicks (w.getLsbD 23) := by
      show s.cfg.hiTicks (e.eshr.getLsbD 23) = _; rw [h.eshr]
    have hsy : (s.smAt l c e q).esymt.toNat = j := h.esymt
    have e1 : (s.smAt l c e q).engineTick = (s.smAt l c e q).engineHigh := by
      simp [State.engineTick, State.enabled, hp, hest]
    rw [e1, State.engineHigh, hhi, hsy]
    by_cases hl : s.cfg.hiTicks (w.getLsbD 23) ≤ j + 1
    · rw [if_pos hl]
      refine ⟨⟨false, estLow, e.eshr, e.ebit, e.esymt + 1⟩, rfl, ?_, ?_, h.eshr, h.ebit, hes⟩
      · rw [if_neg (by omega)]
      · symm; rw [decide_eq_false_iff_not]; omega
    · rw [if_neg hl]
      refine ⟨⟨e.dout, e.est, e.eshr, e.ebit, e.esymt + 1⟩, rfl, ?_, ?_, h.eshr, h.ebit, hes⟩
      · rw [if_pos (by omega)]; exact hest
      · show e.dout = _
        rw [h.dout, decide_eq_true hlt]; symm; rw [decide_eq_true_eq]; omega
  · have hest : (s.smAt l c e q).est = estLow := by show e.est = _; rw [h.est, if_neg hlt]
    have hsy : (s.smAt l c e q).esymt.toNat = j := h.esymt
    have e1 : (s.smAt l c e q).engineTick = (s.smAt l c e q).engineLow := by
      simp [State.engineTick, State.enabled, hp, hest]
    rw [e1, State.engineLow, hsy, if_neg (by show ¬ s.cfg.total ≤ _; omega)]
    refine ⟨⟨e.dout, e.est, e.eshr, e.ebit, e.esymt + 1⟩, rfl, ?_, ?_, h.eshr, h.ebit, hes⟩
    · rw [if_neg (by omega)]; exact hest
    · show e.dout = _
      rw [h.dout, decide_eq_false hlt]; symm; rw [decide_eq_false_iff_not]; omega

/-- In a symbol's last tick the engine is in `E_LOW`. -/
theorem engine_last (hwf : s.cfg.wf = true) (ha : (s.pinsAt l.length).chanAvail = true) (h : SmEng.Sends s.cfg w n j e)
    (hj : j + 1 = s.cfg.total) :
    (s.smAt l c e q).engineTick =
      if 1 < n then s.smAt l c ⟨true, estHigh, w <<< 1, e.ebit - 1, 0⟩ q
      else match q with
        | [] => s.smAt l c ⟨false, estIdle, w, e.ebit, e.esymt⟩ []
        | x :: rest => s.smAt l c ⟨true, estHigh, x, 24, 0⟩ rest := by
  have hb := Config.hiTicks_bounds hwf (w.getLsbD 23)
  have hp : (s.smAt l c e q).pins.chanAvail = true := ha
  have hlt : ¬ j < s.cfg.hiTicks (w.getLsbD 23) := by omega
  have hest : (s.smAt l c e q).est = estLow := by show e.est = _; rw [h.est, if_neg hlt]
  have hsy : (s.smAt l c e q).esymt.toNat = j := h.esymt
  have hd : e.dout = false := by rw [h.dout, decide_eq_false hlt]
  have e1 : (s.smAt l c e q).engineTick = (s.smAt l c e q).engineLow := by
    simp [State.engineTick, State.enabled, hp, hest]
  have hbit : (s.smAt l c e q).ebit.toNat = n := h.ebit
  rw [e1, State.engineLow, hsy, if_pos (by show s.cfg.total ≤ _; omega), hbit]
  obtain rfl := h.eshr
  split
  · rfl
  · cases q with
    | nil => simp only [State.smAt, hd]
    | cons x rest => rfl

theorem sends_shift (hwf : s.cfg.wf = true) (h : SmEng.Sends s.cfg w n j e) (hn : 1 < n) :
    SmEng.Sends s.cfg (w <<< 1) (n - 1) 0 ⟨true, estHigh, w <<< 1, e.ebit - 1, 0⟩ := by
  have hb := (Config.hiTicks_bounds hwf ((w <<< 1).getLsbD 23)).1
  have hp : 0 < s.cfg.hiTicks ((w <<< 1).getLsbD 23) := hb
  refine ⟨by rw [if_pos hp], (decide_eq_true hp).symm, rfl, ?_, rfl⟩
  have := h.ebit
  show (e.ebit - 1).toNat = _
  bv_omega

/-- The idle engine with an empty queue, and with a word waiting. -/
theorem engine_idle (ha : (s.pinsAt l.length).chanAvail = true) (he : e.est = estIdle) :
    (s.smAt l c e q).engineTick = match q with
      | [] => s.smAt l c e []
      | x :: rest => s.smAt l c ⟨true, estHigh, x, 24, 0⟩ rest := by
  have hp : (s.smAt l c e q).pins.chanAvail = true := ha
  have hest : (s.smAt l c e q).est = estIdle := he
  have e1 : (s.smAt l c e q).engineTick = (s.smAt l c e q).engineIdle := by
    simp [State.engineTick, State.enabled, hp, hest]
  rw [e1]
  cases q <;> rfl

end
/-! ### The controller that feeds the engine -/

/-- The words of a transmit with the numbers `a` to `b - 1`. -/
def Feed.slice (f : Feed) (a b : Nat) : List Word24 := (List.range' a (b - a)).map f.wordAt

theorem slice_length (f : Feed) (a b : Nat) : (f.slice a b).length = b - a := by simp [Feed.slice]

theorem slice_cons (f : Feed) {a b : Nat} (h : a < b) : f.slice a b = f.wordAt a :: f.slice (a + 1) b := by
  have : b - a = (b - (a + 1)) + 1 := by omega
  rw [Feed.slice, this, List.range'_succ]; rfl

theorem slice_snoc (f : Feed) {a b : Nat} (h : a ≤ b) : f.slice a b ++ [f.wordAt b] = f.slice a (b + 1) := by
  have e : b + 1 - a = (b - a) + 1 := by omega
  rw [Feed.slice, Feed.slice, e, List.range'_concat, List.map_append]
  simp [Nat.add_sub_of_le h]

/-- The controller `pos` ticks into the word before word `a`: words up to `m` are pushed, `a` of them popped, and the next
push is never past the bound. -/
structure SmCtl.Feeds (cfg : Config) (f : Feed) (a pos m : Nat) (c : SmCtl) (q : List Word24) : Prop where
  cst : c.cst = cstTx
  le : a ≤ m
  max : m ≤ f.n
  queue : q = f.slice a m
  room : m - a ≤ cfg.qdepth
  state : (c.txs = txsSPush ∧ c.pix.toNat = m ∧ m < f.n ∧ (pos = 0 → m - a < cfg.qdepth) ∧
      (0 < pos → a < m ∧ c.blk.toNat + 1 ≤ pos)) ∨
    (c.txs = txsSDrain ∧ m = f.n)

section
variable {s : State} {l : List Bool} {c : SmCtl} {e : SmEng} {q : List Word24} {f : Feed} {a pos m : Nat}

/-- A tick of the controller while the engine is at work: it pushes the next word, waits, or drains. -/
theorem controller_tick (hwf : s.cfg.wf = true) (hs : s.cfg.strategy = .sm) (hn : f.n ≤ 12)
    (hbb : 24 * s.cfg.total ≤ s.cfg.blockBound) (ha : (s.pinsAt l.length).chanAvail = true)
    (h : SmCtl.Feeds s.cfg f a pos m c q) (hq : ¬ (q = [] ∧ e.est = estIdle)) (hpos : pos < 24 * s.cfg.total) :
    ∃ c' p m', (s.smAt l c e q).smTick f = s.smAt l c' e (q ++ p) ∧ q ++ p = f.slice a m' ∧ c'.cst = cstTx ∧
      m ≤ m' ∧ m' ≤ f.n ∧ m' - a ≤ s.cfg.qdepth ∧ (a < m → m' - (a + 1) < s.cfg.qdepth) ∧
      ((c'.txs = txsSPush ∧ c'.pix.toNat = m' ∧ m' < f.n ∧ a < m' ∧ c'.blk.toNat + 1 ≤ pos + 1) ∨
        (c'.txs = txsSDrain ∧ m' = f.n)) := by
  have hT := Config.wf_bit hwf
  have hw := Config.wf_queue hwf hs
  have hlen : q.length = m - a := by rw [h.queue, slice_length]
  rcases h.state with ⟨hx, hp, hm, h0, h1⟩ | ⟨hx, hm⟩
  · have e1 : (s.smAt l c e q).smTick f = (s.smAt l c e q).smPush f := by
      have : (s.smAt l c e q).txs = txsSPush := hx
      simp [State.smTick, this]
    have hpix : (s.smAt l c e q).pix.toNat = m := hp
    by_cases hr : m - a < s.cfg.qdepth
    · have hr' : (s.smAt l c e q).fifo.length < (s.smAt l c e q).cfg.qdepth := by
        show q.length < s.cfg.qdepth; omega
      rw [e1, State.smPush, if_pos hr', hpix]
      by_cases hl : m + 1 < f.n
      · rw [if_pos hl]
        refine ⟨⟨c.cst, c.txs, c.pix + 1, 0, c.lcnt⟩, [f.wordAt m], m + 1, rfl, ?_, h.cst, by omega, by omega, by omega,
          by omega, .inl ⟨hx, ?_, hl, by have := h.le; omega, by simp⟩⟩
        · rw [h.queue, slice_snoc f h.le]
        · show (c.pix + 1).toNat = _
          bv_omega
      · rw [if_neg hl]
        refine ⟨⟨c.cst, txsSDrain, c.pix, 0, c.lcnt⟩, [f.wordAt m], m + 1, rfl, ?_, h.cst, by omega, by omega, by omega,
          by omega, .inr ⟨rfl, by omega⟩⟩
        rw [h.queue, slice_snoc f h.le]
    · have hr' : ¬ (s.smAt l c e q).fifo.length < (s.smAt l c e q).cfg.qdepth := by
        show ¬ q.length < s.cfg.qdepth; omega
      have hpos0 : 0 < pos := by
        rcases Nat.eq_zero_or_pos pos with h' | h'
        · exact absurd (h0 h') hr
        · exact h'
      have hb := h1 hpos0
      have hblk : ¬ (s.smAt l c e q).cfg.blockBound ≤ (s.smAt l c e q).blk.toNat := by
        show ¬ s.cfg.blockBound ≤ c.blk.toNat; omega
      rw [e1, State.smPush, if_neg hr', State.blocked, if_neg hblk]
      refine ⟨⟨c.cst, c.txs, c.pix, c.blk + 1, c.lcnt⟩, [], m, ?_, ?_, h.cst, le_refl _, h.max, h.room, ?_,
        .inl ⟨hx, hp, hm, hb.1, ?_⟩⟩
      · rw [List.append_nil]; rfl
      · rw [List.append_nil, h.queue]
      · have := h.room; omega
      · show (c.blk + 1).toNat + 1 ≤ _
        have : c.blk.toNat + 1 < 2 ^ 32 := by omega
        have e2 : (c.blk + 1).toNat = c.blk.toNat + 1 := by bv_omega
        omega
  · have e1 : (s.smAt l c e q).smTick f = (s.smAt l c e q).smDrain := by
      have : (s.smAt l c e q).txs = txsSDrain := hx
      simp [State.smTick, this]
    have hq' : ¬ ((s.smAt l c e q).fifo = [] ∧ (s.smAt l c e q).est = estIdle) := hq
    have ha' : (s.smAt l c e q).pins.chanAvail = true := ha
    rw [e1, State.smDrain, if_neg hq', if_pos ha']
    refine ⟨⟨c.cst, c.txs, c.pix, 0, c.lcnt⟩, [], m, ?_, ?_, h.cst, le_refl _, h.max, h.room, ?_, .inr ⟨hx, hm⟩⟩
    · rw [List.append_nil]; rfl
    · rw [List.append_nil, h.queue]
    · have := h.room; omega

/-- A tick without a pop. -/
theorem feeds_stay (hwf : s.cfg.wf = true) (hs : s.cfg.strategy = .sm) (hn : f.n ≤ 12)
    (hbb : 24 * s.cfg.total ≤ s.cfg.blockBound) (ha : (s.pinsAt l.length).chanAvail = true)
    (h : SmCtl.Feeds s.cfg f a pos m c q) (hq : ¬ (q = [] ∧ e.est = estIdle)) (hpos : pos < 24 * s.cfg.total) :
    ∃ c' p m', (s.smAt l c e q).smTick f = s.smAt l c' e (q ++ p) ∧ SmCtl.Feeds s.cfg f a (pos + 1) m' c' (q ++ p) := by
  obtain ⟨c', p, m', h1, h2, h3, h4, h5, h6, _, h8⟩ := controller_tick hwf hs hn hbb ha h hq hpos
  refine ⟨c', p, m', h1, h3, le_trans h.le h4, h5, h2, h6, ?_⟩
  rcases h8 with ⟨hx, hp, hm, hlt, hb⟩ | hd
  · exact .inl ⟨hx, hp, hm, by omega, fun _ => ⟨hlt, hb⟩⟩
  · exact .inr hd

/-- A tick in which the engine takes the queue's head: word `a`. -/
theorem feeds_pop (hwf : s.cfg.wf = true) (hs : s.cfg.strategy = .sm) (hn : f.n ≤ 12)
    (hbb : 24 * s.cfg.total ≤ s.cfg.blockBound) (ha : (s.pinsAt l.length).chanAvail = true)
    (h : SmCtl.Feeds s.cfg f a pos m c q) (hlt : a < m) (hpos : pos < 24 * s.cfg.total) :
    ∃ c' p m' rest, (s.smAt l c e q).smTick f = s.smAt l c' e (q ++ p) ∧ q = f.wordAt a :: rest ∧
      SmCtl.Feeds s.cfg f (a + 1) 0 m' c' (rest ++ p) := by
  have hqc : q = f.wordAt a :: f.slice (a + 1) m := by rw [h.queue, slice_cons f hlt]
  obtain ⟨c', p, m', h1, h2, h3, h4, h5, h6, h7, h8⟩ :=
    controller_tick (e := e) hwf hs hn hbb ha h (by rw [hqc]; simp) hpos
  refine ⟨c', p, m', f.slice (a + 1) m, h1, hqc, h3, by omega, h5, ?_, by omega, ?_⟩
  · rw [hqc, slice_cons f (by omega : a < m')] at h2
    exact (List.cons.inj h2).2
  · rcases h8 with ⟨hx, hp, hm, _, hb⟩ | hd
    · exact .inl ⟨hx, hp, hm, fun _ => h7 hlt, by omega⟩
    · exact .inr hd

end

/-! ### Whole words and a whole transmit -/

/-- What a State-Machine transmit of `N` ticks needs of its start. -/
structure State.SmReady (s : State) (f : Feed) (N : Nat) : Prop where
  wf : s.cfg.wf = true
  sm : s.cfg.strategy = .sm
  len : f.n ≤ 12
  bound : 24 * s.cfg.total ≤ s.cfg.blockBound
  noReset : s.NoResetFor N
  channel : s.ChannelFor N

theorem bitWave_take_succ (cfg : Config) (b : Bool) {k : Nat} (hk : k < cfg.total) (hh : cfg.hiTicks b ≤ cfg.total) :
    (cfg.bitWave b).take (k + 1) = (cfg.bitWave b).take k ++ [decide (k < cfg.hiTicks b)] := by
  have hlen : k < (cfg.bitWave b).length := by simp [Config.bitWave]; omega
  rw [List.take_succ_eq_append_getElem hlen]
  simp only [Config.bitWave, List.getElem_append, List.length_replicate, List.getElem_replicate]
  split <;> simp_all

section
variable {s : State} {f : Feed} {N a m n j pos : Nat} {w : Word24} {l : List Bool} {c : SmCtl} {e : SmEng}
  {q : List Word24}

theorem sends_busy (h : SmEng.Sends s.cfg w n j e) : ¬ (q = [] ∧ e.est = estIdle) := by
  rintro ⟨-, hi⟩
  rw [h.est] at hi
  split at hi <;> exact absurd hi (by decide)

/-- One tick inside a symbol. -/
theorem sm_mid_tick (hk : s.SmReady f N) (hN : l.length < N) (he : SmEng.Sends s.cfg w n j e)
    (hc : SmCtl.Feeds s.cfg f a pos m c q) (hj : j + 1 < s.cfg.total) (hpos : pos < 24 * s.cfg.total) :
    ∃ c' e' q' m', TxRun f 1 (s.smAt l c e q)
        (s.smAt (l ++ [decide (j < s.cfg.hiTicks (w.getLsbD 23))]) c' e' q') ∧
      SmEng.Sends s.cfg w n (j + 1) e' ∧ SmCtl.Feeds s.cfg f a (pos + 1) m' c' q' := by
  have ha := hk.channel _ hN
  obtain ⟨e', he1, he2⟩ := engine_mid (c := c) (q := q) hk.wf ha he hj
  obtain ⟨c', p, m', hc1, hc2⟩ := feeds_stay hk.wf hk.sm hk.len hk.bound ha hc (sends_busy he) hpos
  have h := smAt_tick hk.sm hc.cst (hk.noReset _ hN) hc1 he1
  rw [he.dout] at h
  exact ⟨c', e', q ++ p, m', h, he2, hc2⟩

/-- `k` ticks inside a symbol. -/
theorem sm_mid_run (hk : s.SmReady f N) (he : SmEng.Sends s.cfg w n 0 e) (hc : SmCtl.Feeds s.cfg f a pos m c q)
    (k : Nat) (hN : l.length + k ≤ N) (hj : k < s.cfg.total) (hpos : pos + k ≤ 24 * s.cfg.total) :
    ∃ c' e' q' m', TxRun f k (s.smAt l c e q) (s.smAt (l ++ (s.cfg.bitWave (w.getLsbD 23)).take k) c' e' q') ∧
      SmEng.Sends s.cfg w n k e' ∧ SmCtl.Feeds s.cfg f a (pos + k) m' c' q' := by
  have hb := Config.hiTicks_bounds hk.wf (w.getLsbD 23)
  induction k with
  | zero => exact ⟨c, e, q, m, by simpa using TxRun.done _, he, hc⟩
  | succ k ih =>
    obtain ⟨c1, e1, q1, m1, h1, he1, hc1⟩ := ih (by omega) (by omega) (by omega)
    have hlen : ((s.cfg.bitWave (w.getLsbD 23)).take k).length ≤ k := by simp
    obtain ⟨c2, e2, q2, m2, h2, he2, hc2⟩ := sm_mid_tick (l := l ++ (s.cfg.bitWave (w.getLsbD 23)).take k) hk
      (by rw [List.length_append]; omega) he1 hc1 hj (by omega)
    refine ⟨c2, e2, q2, m2, ?_, he2, hc2⟩
    rw [bitWave_take_succ s.cfg _ (by omega) (by omega), ← List.append_assoc]
    exact h1.trans h2

/-- A symbol up to its last tick. -/
theorem sm_symbol_run (hk : s.SmReady f N) (he : SmEng.Sends s.cfg w n 0 e) (hc : SmCtl.Feeds s.cfg f a pos m c q)
    (hN : l.length + s.cfg.total ≤ N) (hpos : pos + s.cfg.total ≤ 24 * s.cfg.total) :
    ∃ l' c' e' q' m', l' ++ [false] = s.cfg.bitWave (w.getLsbD 23) ∧
      TxRun f (s.cfg.total - 1) (s.smAt l c e q) (s.smAt (l ++ l') c' e' q') ∧
      SmEng.Sends s.cfg w n (s.cfg.total - 1) e' ∧ SmCtl.Feeds s.cfg f a (pos + (s.cfg.total - 1)) m' c' q' := by
  have hb := Config.hiTicks_bounds hk.wf (w.getLsbD 23)
  obtain ⟨c', e', q', m', h⟩ := sm_mid_run (l := l) hk he hc (s.cfg.total - 1) (by omega) (by omega) (by omega)
  refine ⟨_, c', e', q', m', ?_, h⟩
  have h1 := bitWave_take_succ s.cfg (w.getLsbD 23) (k := s.cfg.total - 1) (by omega) (by omega)
  rw [decide_eq_false (by omega), Nat.sub_add_cancel (by omega)] at h1
  rw [← h1, List.take_of_length_le (by rw [Config.bitWave_length hk.wf])]

theorem sends_low (he : SmEng.Sends s.cfg w n j e) (hj : s.cfg.hiTicks (w.getLsbD 23) ≤ j) : e.dout = false := by
  rw [he.dout, decide_eq_false (by omega)]

/-- A symbol that is not its word's last leads to the next bit's. -/
theorem sm_next_bit (hk : s.SmReady f N) (he : SmEng.Sends s.cfg w n 0 e) (hc : SmCtl.Feeds s.cfg f a pos m c q)
    (hn : 1 < n) (hN : l.length + s.cfg.total ≤ N) (hpos : pos + s.cfg.total ≤ 24 * s.cfg.total) :
    ∃ c' e' q' m',
      TxRun f s.cfg.total (s.smAt l c e q) (s.smAt (l ++ s.cfg.bitWave (w.getLsbD 23)) c' e' q') ∧
      SmEng.Sends s.cfg (w <<< 1) (n - 1) 0 e' ∧ SmCtl.Feeds s.cfg f a (pos + s.cfg.total) m' c' q' := by
  have hb := Config.hiTicks_bounds hk.wf (w.getLsbD 23)
  obtain ⟨l1, c1, e1, q1, m1, hl, h1, he1, hc1⟩ := sm_symbol_run hk he hc hN hpos
  have hlen : l1.length + 1 = s.cfg.total := by
    have := congrArg List.length hl; rw [Config.bitWave_length hk.wf] at this; simpa using this
  have hN1 : (l ++ l1).length < N := by rw [List.length_append]; omega
  have ha := hk.channel _ hN1
  have e2 := engine_last (c := c1) (q := q1) hk.wf ha he1 (by omega)
  rw [if_pos hn] at e2
  obtain ⟨c2, p, m2, hc2, hf⟩ := feeds_stay hk.wf hk.sm hk.len hk.bound ha hc1 (sends_busy he1) (by omega)
  have h2 := smAt_tick hk.sm hc1.cst (hk.noReset _ hN1) hc2 e2
  rw [sends_low he1 (by omega), List.append_assoc, hl] at h2
  have h := h1.trans h2
  rw [Nat.sub_add_cancel (by omega)] at h
  rw [Nat.add_assoc, Nat.sub_add_cancel (by omega)] at hf
  exact ⟨c2, _, _, m2, h, sends_shift hk.wf he1 hn, hf⟩

/-- The bits of a word up to its last one. -/
theorem sm_bits_run (hk : s.SmReady f N) (k : Nat) (he : SmEng.Sends s.cfg w (k + 1) 0 e)
    (hc : SmCtl.Feeds s.cfg f a pos m c q) (hN : l.length + k * s.cfg.total ≤ N)
    (hpos : pos + k * s.cfg.total ≤ 24 * s.cfg.total) :
    ∃ c' e' q' m', TxRun f (k * s.cfg.total) (s.smAt l c e q)
        (s.smAt (l ++ (wordBits k w).flatMap s.cfg.bitWave) c' e' q') ∧
      SmEng.Sends s.cfg (w <<< k) 1 0 e' ∧ SmCtl.Feeds s.cfg f a (pos + k * s.cfg.total) m' c' q' := by
  induction k generalizing w e c q l m pos with
  | zero => exact ⟨c, e, q, m, by simpa [wordBits] using TxRun.done _, by simpa using he, by simpa using hc⟩
  | succ k ih =>
    have hT : (k + 1) * s.cfg.total = s.cfg.total + k * s.cfg.total := by ring
    rw [hT] at hN hpos ⊢
    obtain ⟨c1, e1, q1, m1, h1, he1, hc1⟩ := sm_next_bit (l := l) hk he hc (by omega) (by omega) (by omega)
    have hlen := Config.bitWave_length hk.wf (w.getLsbD 23)
    obtain ⟨c2, e2, q2, m2, h2, he2, hc2⟩ := ih (l := l ++ s.cfg.bitWave (w.getLsbD 23)) (w := w <<< 1) he1 hc1
      (by rw [List.length_append, hlen]; omega) (by omega)
    refine ⟨c2, e2, q2, m2, ?_, ?_, by rwa [Nat.add_assoc] at hc2⟩
    · rw [wordBits, List.flatMap_cons, ← List.append_assoc]
      exact h1.trans h2
    · rwa [← BitVec.shiftLeft_add, Nat.add_comm 1 k] at he2

/-- A word up to its last tick. -/
theorem sm_word_run (hk : s.SmReady f N) (he : SmEng.Sends s.cfg w 24 0 e) (hc : SmCtl.Feeds s.cfg f a 0 m c q)
    (hN : l.length + 24 * s.cfg.total ≤ N) :
    ∃ l' w' c' e' q' m', l' ++ [false] = s.cfg.pixelWave w ∧
      TxRun f (24 * s.cfg.total - 1) (s.smAt l c e q) (s.smAt (l ++ l') c' e' q') ∧
      SmEng.Sends s.cfg w' 1 (s.cfg.total - 1) e' ∧ SmCtl.Feeds s.cfg f a (24 * s.cfg.total - 1) m' c' q' := by
  have hb := Config.hiTicks_bounds hk.wf (w.getLsbD 23)
  obtain ⟨c1, e1, q1, m1, h1, he1, hc1⟩ := sm_bits_run (l := l) hk 23 he hc (by omega) (by omega)
  have hlen := wordWave_length hk.wf 23 w
  obtain ⟨l2, c2, e2, q2, m2, hl, h2, he2, hc2⟩ := sm_symbol_run (l := l ++ (wordBits 23 w).flatMap s.cfg.bitWave) hk
    he1 hc1 (by rw [List.length_append, hlen]; omega) (by omega)
  have hT : 0 + 23 * s.cfg.total + (s.cfg.total - 1) = 24 * s.cfg.total - 1 := by omega
  refine ⟨(wordBits 23 w).flatMap s.cfg.bitWave ++ l2, w <<< 23, c2, e2, q2, m2, ?_, ?_, he2, by rwa [hT] at hc2⟩
  · rw [pixelWave_split, List.append_assoc, hl]
  · have h := h1.trans h2
    rw [List.append_assoc] at h
    rwa [show 23 * s.cfg.total + (s.cfg.total - 1) = 24 * s.cfg.total - 1 by omega] at h

/-- The words of a transmit from the one in flight, number `a`, on: the engine idle, the queue empty, the controller at
the drain. -/
theorem sm_pixels_run (hk : s.SmReady f N) (k : Nat) (ha : a + (k + 1) = f.n)
    (he : SmEng.Sends s.cfg (f.wordAt a) 24 0 e) (hc : SmCtl.Feeds s.cfg f (a + 1) 0 m c q)
    (hN : l.length + (k + 1) * (24 * s.cfg.total) ≤ N) :
    ∃ c' e', TxRun f ((k + 1) * (24 * s.cfg.total)) (s.smAt l c e q)
        (s.smAt (l ++ (List.range (k + 1)).flatMap fun i => s.cfg.pixelWave (f.wordAt (a + i))) c' e' []) ∧
      c'.cst = cstTx ∧ c'.txs = txsSDrain ∧ e'.est = estIdle ∧ e'.dout = false := by
  induction k generalizing a m c e q l with
  | zero =>
    have hb := Config.hiTicks_bounds hk.wf ((f.wordAt a).getLsbD 23)
    obtain ⟨l1, w1, c1, e1, q1, m1, hl, h1, he1, hc1⟩ := sm_word_run (l := l) hk he hc (by omega)
    have hb1 := Config.hiTicks_bounds hk.wf (w1.getLsbD 23)
    have hlen : l1.length + 1 = 24 * s.cfg.total := by
      have := congrArg List.length hl; rw [Config.pixelWave_length hk.wf] at this; simpa using this
    have hN1 : (l ++ l1).length < N := by rw [List.length_append]; omega
    have hch := hk.channel _ hN1
    have hm1 : m1 = f.n := by have := hc1.le; have := hc1.max; omega
    have hq1 : q1 = [] := by rw [hc1.queue, hm1, ← ha]; simp [Feed.slice]
    have e2 := engine_last (c := c1) (q := q1) hk.wf hch he1 (by omega)
    rw [if_neg (by omega), hq1] at e2
    subst hq1
    obtain ⟨c2, p, m2, hc2, hq2, hcst, hm, hm', -, -, hd⟩ :=
      controller_tick hk.wf hk.sm hk.len hk.bound hch hc1 (sends_busy he1) (by omega)
    have hm2 : m2 = f.n := by omega
    have hp : p = [] := by
      rw [List.nil_append] at hq2; rw [hq2, hm2, ← ha]; simp [Feed.slice]
    subst hp
    have h2 := smAt_tick hk.sm hc1.cst (hk.noReset _ hN1) hc2 e2
    rw [sends_low he1 (by omega), List.append_assoc, hl] at h2
    refine ⟨c2, ⟨false, estIdle, w1, e1.ebit, e1.esymt⟩, ?_, hcst, ?_, rfl, rfl⟩
    · have h := h1.trans h2
      rw [Nat.sub_add_cancel (by omega)] at h
      simpa using h
    · rcases hd with ⟨_, _, h, _⟩ | ⟨h, _⟩
      · omega
      · exact h
  | succ k ih =>
    have hT : (k + 1 + 1) * (24 * s.cfg.total) = 24 * s.cfg.total + (k + 1) * (24 * s.cfg.total) := by ring
    rw [hT] at hN ⊢
    have hb := Config.hiTicks_bounds hk.wf ((f.wordAt a).getLsbD 23)
    obtain ⟨l1, w1, c1, e1, q1, m1, hl, h1, he1, hc1⟩ := sm_word_run (l := l) hk he hc (by omega)
    have hb1 := Config.hiTicks_bounds hk.wf (w1.getLsbD 23)
    have hlen : l1.length + 1 = 24 * s.cfg.total := by
      have := congrArg List.length hl; rw [Config.pixelWave_length hk.wf] at this; simpa using this
    have hN1 : (l ++ l1).length < N := by rw [List.length_append]; omega
    have hch := hk.channel _ hN1
    have hlt : a + 1 < m1 := by
      rcases hc1.state with ⟨_, _, _, _, h⟩ | ⟨_, h⟩
      · exact (h (by omega)).1
      · omega
    obtain ⟨c2, p, m2, rest, hc2, hq, hf⟩ := feeds_pop hk.wf hk.sm hk.len hk.bound hch hc1 (e := e1) hlt (by omega)
    have e2 := engine_last (c := c1) (q := q1) hk.wf hch he1 (by omega)
    rw [if_neg (by omega), hq] at e2
    rw [hq] at hc2 h1
    have h2 := smAt_tick hk.sm hc1.cst (hk.noReset _ hN1) hc2 e2
    rw [sends_low he1 (by omega), List.append_assoc, hl] at h2
    have hpl : (s.cfg.pixelWave (f.wordAt a)).length = 24 * s.cfg.total := Config.pixelWave_length hk.wf _
    obtain ⟨c3, e3, h3, h4⟩ := ih (l := l ++ s.cfg.pixelWave (f.wordAt a)) (by omega)
      (sends_load hk.wf (f.wordAt (a + 1))) hf (by rw [List.length_append, hpl]; omega)
    refine ⟨c3, e3, ?_, h4⟩
    have h := h1.trans h2
    rw [Nat.sub_add_cancel (by omega)] at h
    have e4 : (List.range (k + 1 + 1)).flatMap (fun i => s.cfg.pixelWave (f.wordAt (a + i))) =
        s.cfg.pixelWave (f.wordAt a) ++
          (List.range (k + 1)).flatMap (fun i => s.cfg.pixelWave (f.wordAt (a + 1 + i))) := by
      rw [List.range_succ_eq_map, List.flatMap_cons, List.flatMap_map]
      simp [Nat.add_assoc, Nat.add_comm 1]
    rw [e4, ← List.append_assoc]
    exact h.trans h3

/-- The idle engine, nothing queued: a tick of the controller alone. -/
theorem sm_idle_tick (hk : s.SmReady f N) (hN : l.length < N) {c' : SmCtl} {p : List Word24} (hc : c.cst = cstTx)
    (he : e.est = estIdle) (h : (s.smAt l c e []).smTick f = s.smAt l c' e p) :
    TxRun f 1 (s.smAt l c e []) (s.smAt (l ++ [e.dout]) c' e p) :=
  smAt_tick (p := p) hk.sm hc (hk.noReset _ hN) h (by rw [engine_idle (hk.channel _ hN) he])

/-- The latch, `n` of its ticks gone by, up to success. -/
theorem sm_latch_run (hk : s.SmReady f N) (k : Nat) (hT : c.lcnt.toNat + (k + 1) = s.cfg.treset)
    (hN : l.length + (k + 1) ≤ N) (hc : c.cst = cstTx) (hx : c.txs = txsSLatch) (he : e.est = estIdle)
    (hd : e.dout = false) :
    ∃ c', TxRun f (k + 1) (s.smAt l c e []) (s.smAt (l ++ List.replicate (k + 1) false) c' e []) ∧
      c'.cst = cstAdv ∧ c'.txs = txsStart := by
  have hi := Config.wf_interval hk.wf
  induction k generalizing c l with
  | zero =>
    have h1 : (s.smAt l c e []).smTick f = s.smAt l { c with cst := cstAdv, txs := txsStart } e [] := by
      have ht : (s.smAt l c e []).txs = txsSLatch := hx
      have hl : (s.smAt l c e []).cfg.treset ≤ (s.smAt l c e []).lcnt.toNat + 1 := by
        show s.cfg.treset ≤ c.lcnt.toNat + 1; omega
      rw [State.smTick, ht, if_neg (by decide), if_neg (by decide), if_neg (by decide), State.smLatch, if_pos hl]
      rfl
    have h := sm_idle_tick hk (by omega) hc he h1
    rw [hd] at h
    exact ⟨_, h, rfl, rfl⟩
  | succ k ih =>
    have h1 : (s.smAt l c e []).smTick f = s.smAt l { c with lcnt := c.lcnt + 1 } e [] := by
      have ht : (s.smAt l c e []).txs = txsSLatch := hx
      have hl : ¬ (s.smAt l c e []).cfg.treset ≤ (s.smAt l c e []).lcnt.toNat + 1 := by
        show ¬ s.cfg.treset ≤ c.lcnt.toNat + 1; omega
      rw [State.smTick, ht, if_neg (by decide), if_neg (by decide), if_neg (by decide), State.smLatch, if_neg hl]
      rfl
    have h := sm_idle_tick hk (by omega) hc he h1
    rw [hd] at h
    have hl1 : (c.lcnt + 1).toNat = c.lcnt.toNat + 1 := by bv_omega
    obtain ⟨c', h2, h3⟩ := ih (c := { c with lcnt := c.lcnt + 1 }) (l := l ++ [false])
      (by show (c.lcnt + 1).toNat + (k + 1) = _; omega) (by simp; omega) hc hx
    refine ⟨c', ?_, h3⟩
    have h4 := h.trans h2
    rw [List.append_assoc, Nat.add_comm 1] at h4
    exact h4

/-- `S_START` and the first push, the engine idle and the queue empty. -/
theorem sm_start_run (hk : s.SmReady f N) (hN : l.length + 3 ≤ N) (h1 : 1 ≤ f.n) (hc : c.cst = cstTx)
    (hx : c.txs = txsStart) (he : e.est = estIdle) :
    ∃ c' m q', TxRun f 3 (s.smAt l c e []) (s.smAt (l ++ [e.dout, e.dout, e.dout]) c' ⟨true, estHigh, f.wordAt 0, 24, 0⟩ q') ∧
      SmCtl.Feeds s.cfg f 1 0 m c' q' := by
  have hq := Config.wf_queue hk.wf hk.sm
  have hT := Config.wf_bit hk.wf
  have hlen := hk.len
  have t1 : (s.smAt l c e []).smTick f = s.smAt l { c with pix := 0, blk := 0, txs := txsSPush } e [] := by
    have ht : (s.smAt l c e []).txs = txsStart := hx
    have hp : (s.smAt l c e []).pins.chanAvail = true := hk.channel _ (by omega)
    rw [State.smTick, ht, if_pos rfl, State.smStart, if_pos hp]; rfl
  have r1 := sm_idle_tick hk (by omega) hc he t1
  obtain ⟨c2, t2, hf⟩ : ∃ c2, (s.smAt (l ++ [e.dout]) { c with pix := 0, blk := 0, txs := txsSPush } e []).smTick f =
      s.smAt (l ++ [e.dout]) c2 e [f.wordAt 0] ∧ SmCtl.Feeds s.cfg f 0 1 1 c2 [f.wordAt 0] := by
    have ht : (s.smAt (l ++ [e.dout]) { c with pix := 0, blk := 0, txs := txsSPush } e []).txs = txsSPush := rfl
    have hr : (s.smAt (l ++ [e.dout]) { c with pix := 0, blk := 0, txs := txsSPush } e []).fifo.length <
        (s.smAt (l ++ [e.dout]) { c with pix := 0, blk := 0, txs := txsSPush } e []).cfg.qdepth := by
      show 0 < s.cfg.qdepth; omega
    have hs : [f.wordAt 0] = f.slice 0 1 := rfl
    rw [State.smTick, ht, if_neg (by decide), if_pos rfl, State.smPush, if_pos hr]
    by_cases hn : 0 + 1 < f.n
    · rw [if_pos (by exact hn)]
      exact ⟨⟨c.cst, txsSPush, 0 + 1, 0, c.lcnt⟩, rfl, hc, by omega, by omega, hs, by omega,
        .inl ⟨rfl, rfl, hn, by omega, fun _ => ⟨by omega, by simp⟩⟩⟩
    · rw [if_neg (by exact hn)]
      exact ⟨⟨c.cst, txsSDrain, 0, 0, c.lcnt⟩, rfl, hc, by omega, by omega, hs, by omega, .inr ⟨rfl, by omega⟩⟩
  have r2 := sm_idle_tick (l := l ++ [e.dout]) (c := { c with pix := 0, blk := 0, txs := txsSPush }) hk
    (by simp; omega) hc he t2
  have ha := hk.channel (l ++ [e.dout] ++ [e.dout]).length (by simp; omega)
  have hr := hk.noReset (l ++ [e.dout] ++ [e.dout]).length (by simp; omega)
  obtain ⟨c3, p, m, rest, t3, hq3, hf3⟩ := feeds_pop (e := e) hk.wf hk.sm hk.len hk.bound ha hf (by omega) (by omega)
  have hrest : rest = [] := (List.cons.inj hq3).2.symm
  subst hrest
  have r3 := smAt_tick hk.sm hf.cst hr t3 (by rw [engine_idle ha he])
  have h := r1.trans (r2.trans r3)
  simp only [List.append_assoc, List.cons_append, List.nil_append] at h
  exact ⟨c3, m, p, h, hf3⟩

end

/-- A State-Machine transmit with the engine idle and the queue empty at its start. -/
theorem sm_transmit_run {s : State} {f : Feed} (hk : s.SmReady f (4 + 24 * f.n * s.cfg.total + s.cfg.treset))
    (h1 : 1 ≤ f.n) (hc : s.cst = cstTx) (hx : s.txs = txsStart) (he : s.est = estIdle) (hq : s.fifo = []) :
    ∃ c e, TxRun f (4 + 24 * f.n * s.cfg.total + s.cfg.treset) s
        (s.smAt ([s.dout, s.dout, s.dout] ++ f.words.flatMap s.cfg.pixelWave ++ [false] ++ s.cfg.latchWave) c e []) ∧
      c.cst = cstAdv ∧ c.txs = txsStart ∧ e.est = estIdle ∧ e.dout = false := by
  obtain ⟨k, hn⟩ : ∃ k, f.n = k + 1 := ⟨_, (Nat.sub_add_cancel h1).symm⟩
  have hi := Config.wf_interval hk.wf
  obtain ⟨r, hr⟩ : ∃ r, s.cfg.treset = r + 1 := ⟨_, (Nat.sub_add_cancel hi.1).symm⟩
  have hT : 24 * f.n * s.cfg.total = (k + 1) * (24 * s.cfg.total) := by rw [hn]; ring
  rw [hT] at hk ⊢
  have e0 : s = s.smAt [] ⟨s.cst, s.txs, s.pix, s.blk, s.lcnt⟩ ⟨s.dout, s.est, s.eshr, s.ebit, s.esymt⟩ [] := by
    rw [State.smAt, after_nil, ← hq]
  obtain ⟨c1, m, q1, r1, hf⟩ := sm_start_run (l := []) (c := ⟨s.cst, s.txs, s.pix, s.blk, s.lcnt⟩)
    (e := ⟨s.dout, s.est, s.eshr, s.ebit, s.esymt⟩) hk (by simp; omega) h1 hc hx he
  rw [← e0, List.nil_append] at r1
  obtain ⟨c2, e2, r2, hc2, hx2, he2, hd2⟩ := sm_pixels_run (l := [s.dout, s.dout, s.dout]) hk k (by omega)
    (sends_load hk.wf (f.wordAt 0)) hf (by simp; omega)
  have hw : (List.range (k + 1)).flatMap (fun i => s.cfg.pixelWave (f.wordAt (0 + i))) =
      f.words.flatMap s.cfg.pixelWave := by
    simp [Feed.words, hn, List.flatMap_map]
  have hwl : (f.words.flatMap s.cfg.pixelWave).length = (k + 1) * (24 * s.cfg.total) := by
    rw [List.length_flatMap, List.map_congr_left fun w _ => Config.pixelWave_length hk.wf w]
    simp [Feed.words, hn, Function.comp_def]
  rw [hw] at r2
  have t3 : (s.smAt ([s.dout, s.dout, s.dout] ++ f.words.flatMap s.cfg.pixelWave) c2 e2 []).smTick f =
      s.smAt ([s.dout, s.dout, s.dout] ++ f.words.flatMap s.cfg.pixelWave) { c2 with lcnt := 0, txs := txsSLatch } e2 [] := by
    have ht : (s.smAt ([s.dout, s.dout, s.dout] ++ f.words.flatMap s.cfg.pixelWave) c2 e2 []).txs = txsSDrain := hx2
    rw [State.smTick, ht, if_neg (by decide), if_neg (by decide), if_pos rfl, State.smDrain, if_pos ⟨rfl, he2⟩]
    rfl
  have r3 := sm_idle_tick hk (by simp only [List.length_append, hwl]; simp; omega) hc2 he2 t3
  rw [hd2] at r3
  obtain ⟨c4, r4, hc4, hx4⟩ := sm_latch_run (c := { c2 with lcnt := 0, txs := txsSLatch })
    (l := [s.dout, s.dout, s.dout] ++ f.words.flatMap s.cfg.pixelWave ++ [false]) hk r (by simp [hr])
    (by simp only [List.length_append, hwl]; simp; omega) hc2 rfl he2 hd2
  refine ⟨c4, e2, ?_, hc4, hx4, he2, hd2⟩
  have h := r1.trans (r2.trans (r3.trans r4))
  rw [Config.latchWave, hr]
  rwa [show 4 + (k + 1) * (24 * s.cfg.total) + (r + 1) = 3 + ((k + 1) * (24 * s.cfg.total) + (1 + (r + 1))) by omega]

end Sys2Proof.Machine
end

