-- ==== Sys2Proof/Laws/TimerRun.lean ====
section
/-!
SUPPORT. Runs of the Timer-Paced strategy: a symbol, a word, the pixels of a sequence, the latch, a whole transmit.
-/
namespace Sys2Proof.Machine

/-- Ticks in which the Timer-Paced controller changes nothing. -/
theorem timer_hold (f : Feed) (k : Nat) (s : State) (hs : s.cfg.strategy = .timer) (hc : s.cst = cstTx)
    (hr : s.NoResetFor k)
    (hold : ∀ j, j < k → (s.after (List.replicate j s.dout)).timerTick f = s.after (List.replicate j s.dout)) :
    TxRun f k s (s.after (List.replicate k s.dout)) := by
  induction k generalizing s with
  | zero => simpa [after_nil] using TxRun.done s
  | succ k ih =>
    have hr0 := noReset_now hr (by omega)
    have h0 : s.timerTick f = s := by simpa [after_nil] using hold 0 (by omega)
    refine .tick hc hr0 ?_
    rw [serializerTick_timer hs hr0, h0, endTick_self]
    have e : ∀ j, (s.after [s.dout]).after (List.replicate j s.dout) = s.after (List.replicate (j + 1) s.dout) := by
      intro j; rw [after_append]; rfl
    have := ih (s.after [s.dout]) hs hc (noReset_after (l := [s.dout]) (by simpa [Nat.add_comm] using hr))
      (fun j hj => by
        show ((s.after [s.dout]).after (List.replicate j s.dout)).timerTick f = (s.after [s.dout]).after (List.replicate j s.dout)
        rw [e]; exact hold (j + 1) (by omega))
    rw [← e k]; exact this

theorem timerTick_high {s : State} (f : Feed) (h : s.txs = txsTHigh) : s.timerTick f = s.timerHigh := by
  simp [State.timerTick, h]

theorem timerTick_low {s : State} (f : Feed) (h : s.txs = txsTLow) : s.timerTick f = s.timerLow f := by
  simp [State.timerTick, h]

theorem timerTick_latch {s : State} (f : Feed) (h : s.txs = txsTLatch) : s.timerTick f = s.timerLatch := by
  simp [State.timerTick, h]

/-- The first tick of a Timer-Paced symbol: `w`'s bit 23, with `n` bits left, of pixel `p`. -/
def State.symbolStart (s : State) (w : Word24) (n : BitVec 5) (p : BitVec 4) : State :=
  { s with
    cst := cstTx, txs := txsTHigh, shr := w, bitcnt := n, pix := p, tstart := s.tcnt, dout := true, crit := true }

/-- The first tick of the Timer-Paced latch. -/
def State.latchStart (s : State) (w : Word24) (n : BitVec 5) (p : BitVec 4) : State :=
  { s with
    cst := cstTx, txs := txsTLatch, shr := w, bitcnt := n, pix := p, tstart := s.tcnt, dout := false, crit := false }

/-- The state in a symbol, `l` gone by, in the sub-state `c` with the line at `d`. -/
def State.inSymbol (s : State) (w : Word24) (n : BitVec 5) (p : BitVec 4) (l : List Bool) (c : BitVec 2) (d : Bool) : State :=
  { (s.symbolStart w n p).after l with txs := c, dout := d }

theorem elapsed_inSymbol (s : State) (w : Word24) (n : BitVec 5) (p : BitVec 4) (l : List Bool) (c : BitVec 2) (d : Bool)
    (h : l.length < 2 ^ 32) : (s.inSymbol w n p l c d).elapsed.toNat = l.length := by
  have : (s.inSymbol w n p l c d).elapsed = ((s.symbolStart w n p).after l).elapsed := rfl
  rw [this, elapsed_after]
  simpa [State.elapsed, State.symbolStart] using h

/-- The high part of a symbol and its first low tick. -/
theorem timer_high_run (f : Feed) (s : State) (w : Word24) (n : BitVec 5) (p : BitVec 4) (hs : s.cfg.strategy = .timer)
    (hwf : s.cfg.wf = true) (hr : s.NoResetFor (s.cfg.hiTicks (w.getLsbD 23))) :
    TxRun f (s.cfg.hiTicks (w.getLsbD 23)) (s.symbolStart w n p)
      (s.inSymbol w n p (List.replicate (s.cfg.hiTicks (w.getLsbD 23)) true) txsTLow false) := by
  have hb := Config.hiTicks_bounds hwf (w.getLsbD 23)
  have hT := Config.wf_bit hwf
  obtain ⟨k, hk⟩ : ∃ k, s.cfg.hiTicks (w.getLsbD 23) = k + 1 := ⟨_, (Nat.sub_add_cancel hb.1).symm⟩
  rw [hk] at hr ⊢
  have hold := timer_hold f k (s.symbolStart w n p) hs rfl (fun j hj => hr j (by omega)) (fun j hj => by
    have e : (s.symbolStart w n p).after (List.replicate j (s.symbolStart w n p).dout) =
      s.inSymbol w n p (List.replicate j true) txsTHigh true := rfl
    rw [e, timerTick_high f rfl, State.timerHigh, if_neg]
    rw [elapsed_inSymbol _ _ _ _ _ _ _ (by simp; omega)]
    show ¬ s.cfg.hiTicks (w.getLsbD 23) ≤ _
    rw [hk]; simp; omega)
  have hr0 : ((s.symbolStart w n p).after (List.replicate k (s.symbolStart w n p).dout)).pins.rst = false := by
    have := hr k (by omega)
    simpa [State.symbolStart, State.after, State.passTicks, State.pinsAt] using this
  refine hold.trans (.tick rfl hr0 ?_)
  · rw [serializerTick_timer (by exact hs) hr0, timerTick_high f rfl, State.timerHigh, if_pos]
    · have : ∀ t u : State, t = u → TxRun f 0 t u := fun t u h => h ▸ .done t
      apply this
      rw [List.replicate_succ', State.inSymbol, ← after_append]
      rfl
    · have e : (s.symbolStart w n p).after (List.replicate k (s.symbolStart w n p).dout) =
        s.inSymbol w n p (List.replicate k true) txsTHigh true := rfl
      rw [e, elapsed_inSymbol _ _ _ _ _ _ _ (by simp; omega)]
      show s.cfg.hiTicks (w.getLsbD 23) ≤ _
      rw [hk]; simp

/-- The low part of a symbol up to its last tick. -/
theorem timer_low_run (f : Feed) (s : State) (w : Word24) (n : BitVec 5) (p : BitVec 4) (hs : s.cfg.strategy = .timer)
    (hwf : s.cfg.wf = true) (l : List Bool) (k : Nat) (hl : l.length + (k + 1) = s.cfg.total)
    (hr : s.NoResetFor s.cfg.total) :
    TxRun f k (s.inSymbol w n p l txsTLow false) (s.inSymbol w n p (l ++ List.replicate k false) txsTLow false) := by
  have hT := Config.wf_bit hwf
  have e : ∀ j, (s.inSymbol w n p l txsTLow false).after (List.replicate j false) =
      s.inSymbol w n p (l ++ List.replicate j false) txsTLow false := by
    intro j; rw [State.inSymbol, State.inSymbol, ← after_append]; rfl
  have hold := timer_hold f k (s.inSymbol w n p l txsTLow false) hs rfl
    (fun j hj => by
      have := hr (l.length + j) (by omega)
      simpa [State.inSymbol, State.symbolStart, State.after, State.passTicks, State.pinsAt, pinsAt_add] using this)
    (fun j hj => by
      show ((s.inSymbol w n p l txsTLow false).after (List.replicate j false)).timerTick f =
        (s.inSymbol w n p l txsTLow false).after (List.replicate j false)
      rw [e, timerTick_low f rfl, State.timerLow, if_neg]
      rw [elapsed_inSymbol _ _ _ _ _ _ _ (by simp; omega)]
      show ¬ s.cfg.total ≤ _
      simp; omega)
  rw [← e k]
  exact hold

/-- A whole symbol up to what its last tick makes of it. -/
theorem timer_symbol_run (f : Feed) (s : State) (w : Word24) (n : BitVec 5) (p : BitVec 4) (hs : s.cfg.strategy = .timer)
    (hwf : s.cfg.wf = true) (hr : s.NoResetFor s.cfg.total) :
    ∃ l, l ++ [false] = s.cfg.bitWave (w.getLsbD 23) ∧
      TxRun f s.cfg.total (s.symbolStart w n p)
        ((s.inSymbol w n p l txsTLow false).endTick ((s.inSymbol w n p l txsTLow false).timerLow f)) ∧
      s.cfg.total ≤ (s.inSymbol w n p l txsTLow false).elapsed.toNat + 1 := by
  have hb := Config.hiTicks_bounds hwf (w.getLsbD 23)
  have hT := Config.wf_bit hwf
  obtain ⟨k, hk⟩ : ∃ k, s.cfg.total = s.cfg.hiTicks (w.getLsbD 23) + (k + 1) :=
    ⟨s.cfg.total - s.cfg.hiTicks (w.getLsbD 23) - 1, by omega⟩
  refine ⟨List.replicate (s.cfg.hiTicks (w.getLsbD 23)) true ++ List.replicate k false, ?_, ?_, ?_⟩
  · rw [Config.bitWave, hk, Nat.add_sub_cancel_left, List.replicate_succ', List.append_assoc]
  · have h1 := timer_high_run f s w n p hs hwf (fun j hj => hr j (by omega))
    have h2 := timer_low_run f s w n p hs hwf (List.replicate (s.cfg.hiTicks (w.getLsbD 23)) true) k
      (by simp only [List.length_replicate]; omega) hr
    have hr0 : (s.inSymbol w n p (List.replicate (s.cfg.hiTicks (w.getLsbD 23)) true ++ List.replicate k false)
        txsTLow false).pins.rst = false := by
      have := hr (s.cfg.hiTicks (w.getLsbD 23) + k) (by omega)
      simpa [State.inSymbol, State.symbolStart, State.after, State.passTicks, State.pinsAt] using this
    have h3 : TxRun f 1 _ _ := .tick rfl hr0 (.done _)
    rw [serializerTick_timer (by exact hs) hr0, timerTick_low f rfl] at h3
    have := (h1.trans h2).trans h3
    rwa [Nat.add_assoc, ← hk] at this
  · rw [elapsed_inSymbol _ _ _ _ _ _ _ (by simp only [List.length_append, List.length_replicate]; omega)]
    simp only [List.length_append, List.length_replicate]; omega

/-- A symbol that is not its word's last leads to the next bit's. -/
theorem timer_next_bit (f : Feed) (s : State) (w : Word24) (n : BitVec 5) (p : BitVec 4) (hs : s.cfg.strategy = .timer)
    (hwf : s.cfg.wf = true) (hr : s.NoResetFor s.cfg.total) (hn : 1 < n.toNat) :
    TxRun f s.cfg.total (s.symbolStart w n p)
      ((s.after (s.cfg.bitWave (w.getLsbD 23))).symbolStart (w <<< 1) (n - 1) p) := by
  obtain ⟨l, hl, h, he⟩ := timer_symbol_run f s w n p hs hwf hr
  rw [State.timerLow, if_pos (by exact he), if_pos (by exact hn)] at h
  rw [← hl, ← after_append]
  exact h

/-- The last symbol of a pixel that is not the last leads to the next pixel's first. -/
theorem timer_next_pixel (f : Feed) (s : State) (w : Word24) (n : BitVec 5) (p : BitVec 4) (hs : s.cfg.strategy = .timer)
    (hwf : s.cfg.wf = true) (hr : s.NoResetFor s.cfg.total) (hn : n.toNat ≤ 1) (hp : p.toNat + 1 < f.n) :
    TxRun f s.cfg.total (s.symbolStart w n p)
      ((s.after (s.cfg.bitWave (w.getLsbD 23))).symbolStart (f.wordAt (p.toNat + 1)) 24 (p + 1)) := by
  obtain ⟨l, hl, h, he⟩ := timer_symbol_run f s w n p hs hwf hr
  rw [State.timerLow, if_pos (by exact he), if_neg (by exact Nat.not_lt.mpr hn), if_pos (by exact hp)] at h
  rw [← hl, ← after_append]
  exact h

/-- The last symbol of the last pixel leads to the latch. -/
theorem timer_to_latch (f : Feed) (s : State) (w : Word24) (n : BitVec 5) (p : BitVec 4) (hs : s.cfg.strategy = .timer)
    (hwf : s.cfg.wf = true) (hr : s.NoResetFor s.cfg.total) (hn : n.toNat ≤ 1) (hp : f.n ≤ p.toNat + 1) :
    TxRun f s.cfg.total (s.symbolStart w n p)
      ((s.after (s.cfg.bitWave (w.getLsbD 23))).latchStart w n p) := by
  obtain ⟨l, hl, h, he⟩ := timer_symbol_run f s w n p hs hwf hr
  rw [State.timerLow, if_pos (by exact he), if_neg (by exact Nat.not_lt.mpr hn),
    if_neg (by exact Nat.not_lt.mpr hp)] at h
  rw [← hl, ← after_append]
  exact h

/-- The bits of a word up to its last one. -/
theorem timer_word_run (f : Feed) (k : Nat) (s : State) (w : Word24) (n : BitVec 5) (p : BitVec 4)
    (hs : s.cfg.strategy = .timer) (hwf : s.cfg.wf = true) (hr : s.NoResetFor (k * s.cfg.total)) (hn : n.toNat = k + 1) :
    TxRun f (k * s.cfg.total) (s.symbolStart w n p)
      ((s.after ((wordBits k w).flatMap s.cfg.bitWave)).symbolStart (w <<< k) 1 p) := by
  induction k generalizing s w n with
  | zero =>
    have : n = 1 := by bv_omega
    subst this
    simpa [wordBits, after_nil] using TxRun.done _
  | succ k ih =>
    have hT : (k + 1) * s.cfg.total = s.cfg.total + k * s.cfg.total := by ring
    rw [hT] at hr ⊢
    have h1 := timer_next_bit f s w n p hs hwf (noReset_weaken hr (by omega)) (by omega)
    have hlen := Config.bitWave_length hwf (w.getLsbD 23)
    have h2 := ih (s.after (s.cfg.bitWave (w.getLsbD 23))) (w <<< 1) (n - 1) hs hwf
      (noReset_after (by rw [hlen]; exact hr)) (by bv_omega)
    have := h1.trans h2
    rw [after_append, after_cfg, ← BitVec.shiftLeft_add, Nat.add_comm 1 k] at this
    simpa only [wordBits, List.flatMap_cons] using this

/-- The pixels of a transmit from its pixel `p` on, up to the first tick of the latch. -/
theorem timer_pixels_run (f : Feed) (k : Nat) (s : State) (p : BitVec 4)
    (hs : s.cfg.strategy = .timer) (hwf : s.cfg.wf = true) (hr : s.NoResetFor ((k + 1) * (24 * s.cfg.total)))
    (hp : p.toNat + (k + 1) = f.n) (hn : f.n ≤ 12) :
    ∃ w b q, TxRun f ((k + 1) * (24 * s.cfg.total)) (s.symbolStart (f.wordAt p.toNat) 24 p)
      ((s.after ((List.range (k + 1)).flatMap fun j => s.cfg.pixelWave (f.wordAt (p.toNat + j)))).latchStart w b q) := by
  induction k generalizing s p with
  | zero =>
    have hT : (0 + 1) * (24 * s.cfg.total) = 23 * s.cfg.total + s.cfg.total := by ring
    rw [hT] at hr ⊢
    have h1 := timer_word_run f 23 s (f.wordAt p.toNat) 24 p hs hwf (noReset_weaken hr (by omega)) (by rfl)
    have hlen := wordWave_length hwf 23 (f.wordAt p.toNat)
    have h2 := timer_to_latch f (s.after ((wordBits 23 (f.wordAt p.toNat)).flatMap s.cfg.bitWave)) (f.wordAt p.toNat <<< 23)
      1 p hs hwf (noReset_after (by rw [hlen]; exact hr)) (by decide) (by omega)
    refine ⟨f.wordAt p.toNat <<< 23, 1, p, ?_⟩
    have := h1.trans h2
    rw [after_append, after_cfg, ← pixelWave_split] at this
    simpa [List.range_succ] using this
  | succ k ih =>
    have hT : (k + 1 + 1) * (24 * s.cfg.total) = 23 * s.cfg.total + (s.cfg.total + (k + 1) * (24 * s.cfg.total)) := by ring
    rw [hT] at hr ⊢
    have h1 := timer_word_run f 23 s (f.wordAt p.toNat) 24 p hs hwf (noReset_weaken hr (by omega)) (by rfl)
    have hlen := wordWave_length hwf 23 (f.wordAt p.toNat)
    have hr2 := noReset_after (s := s) (l := (wordBits 23 (f.wordAt p.toNat)).flatMap s.cfg.bitWave) (by rw [hlen]; exact hr)
    have h2 := timer_next_pixel f (s.after ((wordBits 23 (f.wordAt p.toNat)).flatMap s.cfg.bitWave)) (f.wordAt p.toNat <<< 23)
      1 p hs hwf (noReset_weaken hr2 (by simp)) (by decide) (by omega)
    rw [after_append, after_cfg, ← pixelWave_split] at h2
    have hlen2 : (s.cfg.pixelWave (f.wordAt p.toNat)).length = 24 * s.cfg.total := Config.pixelWave_length hwf _
    have hp1 : (p + 1).toNat = p.toNat + 1 := by bv_omega
    obtain ⟨w, b, q, h3⟩ := ih (s.after (s.cfg.pixelWave (f.wordAt p.toNat))) (p + 1) hs hwf
      (noReset_after (by rw [hlen2]; exact noReset_weaken hr (by simp; omega))) (by omega)
    refine ⟨w, b, q, ?_⟩
    rw [hp1] at h3
    have := h1.trans (h2.trans h3)
    rw [after_append, after_cfg] at this
    have e : (List.range (k + 1 + 1)).flatMap (fun j => s.cfg.pixelWave (f.wordAt (p.toNat + j))) =
        s.cfg.pixelWave (f.wordAt p.toNat) ++
          (List.range (k + 1)).flatMap (fun j => s.cfg.pixelWave (f.wordAt (p.toNat + 1 + j))) := by
      rw [List.range_succ_eq_map, List.flatMap_cons, List.flatMap_map]
      simp [Nat.add_assoc, Nat.add_comm 1]
    rw [e]; exact this

/-- The state a Timer-Paced transmit leaves when it has succeeded: the ticks of `l` gone by, the controller at `ADV`. -/
def State.timerDone (s : State) (l : List Bool) (w : Word24) (b : BitVec 5) (p : BitVec 4) (ts : Word32) : State :=
  { s.after l with
    cst := cstAdv, txs := txsStart, shr := w, bitcnt := b, pix := p, tstart := ts, dout := false, crit := false }

/-- The latch, from its first tick. -/
theorem timer_latch_run (f : Feed) (s : State) (w : Word24) (n : BitVec 5) (p : BitVec 4) (hs : s.cfg.strategy = .timer)
    (hwf : s.cfg.wf = true) (hr : s.NoResetFor s.cfg.treset) :
    TxRun f s.cfg.treset (s.latchStart w n p) (s.timerDone s.cfg.latchWave w n p s.tcnt) := by
  have hT := Config.wf_interval hwf
  obtain ⟨k, hk⟩ : ∃ k, s.cfg.treset = k + 1 := ⟨_, (Nat.sub_add_cancel hT.1).symm⟩
  have el : ∀ j, j < 2 ^ 32 → ((s.latchStart w n p).after (List.replicate j false)).elapsed.toNat = j := by
    intro j hj
    rw [elapsed_after]
    simpa [State.elapsed, State.latchStart] using hj
  have hold := timer_hold f k (s.latchStart w n p) hs rfl (fun j hj => hr j (by omega)) (fun j hj => by
    show ((s.latchStart w n p).after (List.replicate j false)).timerTick f = (s.latchStart w n p).after (List.replicate j false)
    rw [timerTick_latch f rfl, State.timerLatch, if_neg]
    rw [el j (by omega)]
    show ¬ s.cfg.treset ≤ _
    omega)
  have hr0 : ((s.latchStart w n p).after (List.replicate k (s.latchStart w n p).dout)).pins.rst = false := by
    have := hr k (by omega)
    simpa [State.latchStart, State.after, State.passTicks, State.pinsAt] using this
  have h3 : TxRun f 1 _ _ := .tick rfl hr0 (.done _)
  have hc : s.cfg.treset ≤ ((s.latchStart w n p).after (List.replicate k false)).elapsed.toNat + 1 := by
    rw [el k (by omega), hk]
  rw [serializerTick_timer (by exact hs) hr0, timerTick_latch f rfl, State.timerLatch, if_pos (by exact hc)] at h3
  have := hold.trans h3
  rw [Config.latchWave, hk, List.replicate_succ', State.timerDone, ← after_append]
  exact this

/-- A Timer-Paced transmit with the channel available at its start. -/
theorem timer_transmit_run (f : Feed) (s : State) (hs : s.cfg.strategy = .timer) (hwf : s.cfg.wf = true)
    (hc : s.cst = cstTx) (hx : s.txs = txsStart) (ha : s.pins.chanAvail = true) (h1 : 1 ≤ f.n) (hn : f.n ≤ 12)
    (hr : s.NoResetFor (1 + 24 * f.n * s.cfg.total + s.cfg.treset)) :
    ∃ w b p ts, TxRun f (1 + 24 * f.n * s.cfg.total + s.cfg.treset) s
      (s.timerDone (s.dout :: s.cfg.frameWave f.words) w b p ts) := by
  have hr0 := noReset_now hr (by omega)
  obtain ⟨k, hk⟩ : ∃ k, f.n = k + 1 := ⟨_, (Nat.sub_add_cancel h1).symm⟩
  have hT : 24 * f.n * s.cfg.total = (k + 1) * (24 * s.cfg.total) := by rw [hk]; ring
  rw [hT, Nat.add_assoc] at hr ⊢
  have t1 : TxRun f 1 s ((s.after [s.dout]).symbolStart (f.wordAt 0) 24 0) := by
    have := TxRun.tick hc hr0 (.done (s.serializerTick f))
    rw [serializerTick_timer hs hr0] at this
    have e : s.timerTick f = s.timerStart f := by simp [State.timerTick, hx]
    rw [e, State.timerStart, if_pos ha] at this
    have e2 : s = { s with cst := cstTx } := by rw [← hc]
    have e3 : (s.endTick ((({ s with pix := 0 } : State).loadShr (f.wordAt 0)).startSymbol.setCrit true)) =
        (s.after [s.dout]).symbolStart (f.wordAt 0) 24 0 := by
      cases s; simp only at hc; subst hc; rfl
    rwa [e3] at this
  have hr1 := noReset_after (s := s) (l := [s.dout]) hr
  obtain ⟨w, b, q, t2⟩ := timer_pixels_run f k (s.after [s.dout]) 0 hs hwf (noReset_weaken hr1 (by simp)) (by simp [hk]) hn
  have t3 := timer_latch_run f ((s.after [s.dout]).after
      ((List.range (k + 1)).flatMap fun j => s.cfg.pixelWave (f.wordAt ((0 : BitVec 4).toNat + j)))) w b q hs hwf
      (noReset_after (by
        have : ((List.range (k + 1)).flatMap fun j => s.cfg.pixelWave (f.wordAt ((0 : BitVec 4).toNat + j))).length =
            (k + 1) * (24 * s.cfg.total) := by
          generalize (k + 1) = m
          induction m with
          | zero => simp
          | succ m ih => rw [List.range_succ, List.flatMap_append, List.length_append, ih]; simp [Config.pixelWave_length hwf]; ring
        rw [this]; exact hr1))
  refine ⟨w, b, q, ((s.after [s.dout]).after
      ((List.range (k + 1)).flatMap fun j => s.cfg.pixelWave (f.wordAt ((0 : BitVec 4).toNat + j)))).tcnt, ?_⟩
  have := t1.trans (t2.trans t3)
  have e : s.dout :: s.cfg.frameWave f.words = [s.dout] ++ ((List.range (k + 1)).flatMap fun j => s.cfg.pixelWave (f.wordAt ((0 : BitVec 4).toNat + j))) ++ s.cfg.latchWave := by
    simp [Config.frameWave, Feed.words, hk, List.flatMap_map]
  rw [e]
  simp only [State.timerDone, after_append, after_cfg] at this ⊢
  exact this

end Sys2Proof.Machine
end

