-- ==== Sys2Proof/Tests/Slice0.lean ====
section
/-!
SUPPORT. Tests of one step or one operation on small states, with expected values from spec/95_test_vectors.md or
written out from the encoding tables of spec/30_encoding.md; and for every obligation with hypotheses a named witness
that meets them.
-/
namespace Sys2Proof.Tests
open Sys2Proof.Machine

/-! ### Small configurations and states -/

/-- The profile (1, 2, 3) of spec/95_test_vectors.md 2.6, two pixels, full brightness. -/
def timerCfg : Config := { Config.cfgA with npix := 2, scale := 255, frameTicks := 10, phaseInit := 0 }

/-- The profile (2, 7, 10) of spec/95_test_vectors.md 2.7 with a queue of one word. -/
def smCfg : Config := { Config.cfgB with npix := 3, qdepth := 1, frameTicks := 20 }

def fair : Pins := { rst := false, initOk := true, chanAvail := true }
def busy : Pins := { rst := false, initOk := true, chanAvail := false }
def failing : Pins := { rst := false, initOk := false, chanAvail := true }
def resetting : Pins := { rst := true, initOk := true, chanAvail := true }

/-- The Timer-Paced block just reset. -/
def tm : State := State.resetWith timerCfg 0xFFFFFFF3#32 fair

/-- The State-Machine block just reset. -/
def sm : State := State.resetWith smCfg 5 fair

/-- The Timer-Paced block in a sub-state of `TX`, with `el` ticks gone by. -/
def tmAt (txs : BitVec 2) (el : Nat) (shr : Word24) (bitcnt : BitVec 5) (pix : BitVec 4) : State :=
  { tm with
    cst := cstTx, txs := txs, shr := shr, bitcnt := bitcnt, pix := pix, col := ⟨0, 255, 0⟩
    tstart := 0xFFFFFFF4#32, tcnt := 0xFFFFFFF4#32 + BitVec.ofNat 32 el }

/-- The State-Machine block in a sub-state of `TX`. -/
def smAt (txs : BitVec 2) (fifo : List Word24) (est : BitVec 2) (blk : Word32) : State :=
  { sm with cst := cstTx, txs := txs, fifo := fifo, est := est, blk := blk, col := ⟨255, 0, 0⟩, pix := 0 }

/-- The bit engine in a state, its queue given. -/
def engAt (est : BitVec 2) (esymt : Word32) (eshr : Word24) (ebit : BitVec 5) (fifo : List Word24) : State :=
  { sm with est := est, esymt := esymt, eshr := eshr, ebit := ebit, fifo := fifo }

/-- What a test reads from an outcome. -/
def read {α : Type} (f : State → α) : Host.Outcome State Fault Refusal → Option α
  | .next t => some (f t)
  | _ => none

theorem pinsAt_nil (p : Pins) (k : Nat) : Machine.pinsAt p [] k = p := by cases k <;> rfl

/-- With no samples to come the ports hold. -/
theorem noReset_hold {s : State} (h : s.script = []) (hr : s.pins.rst = false) (n : Nat) : s.NoResetFor n := by
  intro k _; simp [State.pinsAt, h, pinsAt_nil, hr]

theorem channel_hold {s : State} (h : s.script = []) (hr : s.pins.chanAvail = true) (n : Nat) : s.ChannelFor n := by
  intro k _; simp [State.pinsAt, h, pinsAt_nil, hr]

/-! ### Well-formedness: each check refuses an ill-formed term (spec/00_scope.md R8, R7; R130) -/

theorem test_wf_cfgA : Config.cfgA.wf = true := by decide
theorem test_wf_cfgB : Config.cfgB.wf = true := by decide
theorem test_wf_t0h_zero : Config.wf { Config.cfgA with t0h := 0 } = false := by decide
theorem test_wf_t0h_t1h : Config.wf { Config.cfgA with t0h := 2 } = false := by decide
theorem test_wf_t1h_total : Config.wf { Config.cfgA with t1h := 3 } = false := by decide
theorem test_wf_total : Config.wf { Config.cfgA with total := 2 ^ 32 } = false := by decide
theorem test_wf_treset_zero : Config.wf { Config.cfgA with treset := 0 } = false := by decide
theorem test_wf_treset_big : Config.wf { Config.cfgA with treset := 2 ^ 32 } = false := by decide
theorem test_wf_frame_zero : Config.wf { Config.cfgA with frameTicks := 0 } = false := by decide
theorem test_wf_frame_big : Config.wf { Config.cfgA with frameTicks := 2 ^ 32 } = false := by decide
theorem test_wf_npix_zero : Config.wf { Config.cfgA with npix := 0 } = false := by decide
theorem test_wf_npix_13 : Config.wf { Config.cfgA with npix := 13 } = false := by decide
theorem test_wf_qdepth_sm : Config.wf { Config.cfgB with qdepth := 0 } = false := by decide
theorem test_wf_bound_sm : Config.wf { Config.cfgB with blockBound := 2 ^ 32 } = false := by decide
/-- The queue's checks do not apply to `TIMER` ("not used"). -/
theorem test_wf_qdepth_timer : Config.wf { Config.cfgA with qdepth := 0 } = true := by decide
theorem test_wf_no_color : (Instr.transmit [] 255).wf = false := by decide
theorem test_wf_13_colors : (Instr.transmit (List.replicate 13 ⟨0, 0, 0⟩) 255).wf = false := by decide

/-! ### Decoding: the codes and waveforms of spec/30_encoding.md, every constructor -/

theorem test_dec_initchk : decode Config.cfgA (.cst 0b000#3) = .ok .initchk := by decide
theorem test_dec_rdphase : decode Config.cfgA (.cst 0b001#3) = .ok .rdphase := by decide
theorem test_dec_seq : decode Config.cfgA (.cst 0b010#3) = .ok .seq := by decide
theorem test_dec_tx : decode Config.cfgA (.cst 0b011#3) = .ok .tx := by decide
theorem test_dec_advance : decode Config.cfgA (.cst 0b100#3) = .ok .advance := by decide
theorem test_dec_waitframe : decode Config.cfgA (.cst 0b101#3) = .ok .waitframe := by decide
theorem test_dec_halt : decode Config.cfgA (.cst 0b111#3) = .ok .halt := by decide
theorem test_dec_wheel : decode Config.cfgA (.policy 0b0#1) = .ok .wheel := by decide
theorem test_dec_hsv : decode Config.cfgA (.policy 0b1#1) = .ok .hsv := by decide
theorem test_dec_tStart : decode Config.cfgA (.txsTimer 0b00#2) = .ok .tStart := by decide
theorem test_dec_tHigh : decode Config.cfgA (.txsTimer 0b01#2) = .ok .tHigh := by decide
theorem test_dec_tLow : decode Config.cfgA (.txsTimer 0b10#2) = .ok .tLow := by decide
theorem test_dec_tLatch : decode Config.cfgA (.txsTimer 0b11#2) = .ok .tLatch := by decide
theorem test_dec_sStart : decode Config.cfgB (.txsSm 0b00#2) = .ok .sStart := by decide
theorem test_dec_sPush : decode Config.cfgB (.txsSm 0b01#2) = .ok .sPush := by decide
theorem test_dec_sDrain : decode Config.cfgB (.txsSm 0b10#2) = .ok .sDrain := by decide
theorem test_dec_sLatch : decode Config.cfgB (.txsSm 0b11#2) = .ok .sLatch := by decide
theorem test_dec_eIdle : decode Config.cfgB (.est 0b00#2) = .ok .eIdle := by decide
theorem test_dec_eHigh : decode Config.cfgB (.est 0b01#2) = .ok .eHigh := by decide
theorem test_dec_eLow : decode Config.cfgB (.est 0b10#2) = .ok .eLow := by decide
/-- spec/95_test_vectors.md 2.5, profile (3, 6, 10): `1110000000`. -/
theorem test_dec_bit0 :
    decode { Config.cfgA with t0h := 3, t1h := 6, total := 10 }
      (.symbol [true, true, true, false, false, false, false, false, false, false]) = .ok .bit0 := by decide
/-- spec/95_test_vectors.md 2.5, profile (1, 3, 4): `1110`. -/
theorem test_dec_bit1 :
    decode { Config.cfgA with t0h := 1, t1h := 3, total := 4 } (.symbol [true, true, true, false]) = .ok .bit1 := by
  decide
/-- R82: `TRESET` low ticks are a latch, one fewer are no symbol. -/
theorem test_dec_latch :
    decode { Config.cfgA with treset := 2 } (.symbol [false, false]) = .ok .latch ∧
    decode { Config.cfgA with treset := 2 } (.symbol [false]) = .error .notASymbol := by decide
theorem test_dec_pixel : decode Config.cfgA (.word 0x03FC00#24) = .ok (.pixel 0x03FC00#24) := by decide
theorem test_dec_scale : decode Config.cfgA (.func .scale [252#8, 32#8]) = .ok (.scale 252#8 32#8) := by decide
theorem test_dec_transmit :
    decode Config.cfgA (.func .transmit [32#8, 0#8, 126#8, 129#8]) = .ok (.transmit [⟨0#8, 126#8, 129#8⟩] 32#8) := by
  decide
/-- R95: the reserved codes. -/
theorem test_dec_reserved :
    decode Config.cfgA (.cst 0b110#3) = .error .reservedCst ∧
    decode Config.cfgB (.est 0b11#2) = .error .reservedEst ∧ ChOrder.ofCode 6#3 = none ∧ ChOrder.ofCode 7#3 = none := by
  decide
/-- R94. -/
theorem test_chorder_codes :
    ChOrder.ofCode 0#3 = some .rgb ∧ ChOrder.ofCode 2#3 = some .grb ∧ ChOrder.ofCode 5#3 = some .bgr := by decide
theorem test_table_word : decodeTableWord 8 5 = some .waitframe ∧ decodeTableWord 32 0x0F0010 = some (.pixel 0x0F0010#24) := by
  decide

/-! ### The loop (spec/95_test_vectors.md 2.8) -/

theorem test_initchk_ok : read (·.cst) (exec .initchk tm) = some 0b001#3 := by decide
theorem test_initchk_fail :
    read (fun t => (t.cst, t.haltCause)) (exec .initchk { tm with pins := failing }) = some (0b111#3, 0b01#2) := by decide
theorem test_rdphase : read (fun t => (t.phl, t.cst)) (exec .rdphase { tm with phase := 128 }) = some (128#8, 0b010#3) := by
  decide
theorem test_seq :
    read (fun t => (t.col, t.txs, t.cst)) (exec .seq { tm with phl := 128, txs := 3 }) =
      some (⟨0, 126, 129⟩, 0b00#2, 0b011#3) := by decide
theorem test_tx : read (fun t => (t.txs, t.dout)) (exec .tx (tmAt txsTHigh 1 0xFF0000 24 0)) = some (0b10#2, false) := by
  decide
theorem test_advance :
    read (fun t => (t.phase, t.ftmr, t.cst)) (exec .advance { tm with phase := 128 }) = some (129#8, 10#32, 0b101#3) := by
  decide
theorem test_advance_wraps : read (·.phase) (exec .advance { tm with phase := 255 }) = some 0#8 := by decide
theorem test_waitframe_2 :
    read (fun t => (t.ftmr, t.cst)) (exec .waitframe { tm with cst := cstWait, ftmr := 2 }) = some (1#32, 0b101#3) := by
  decide
theorem test_waitframe_1 :
    read (fun t => (t.ftmr, t.cst)) (exec .waitframe { tm with cst := cstWait, ftmr := 1 }) = some (1#32, 0b001#3) := by
  decide
theorem test_halt :
    read (fun t => (t.cst, t.haltCause)) (step { tm with cst := cstHalt, haltCause := causeTxFail }) =
      some (0b111#3, 0b10#2) := by decide
/-- R230, `TCNT` counts on through a reset (R30). -/
theorem test_reset_tick :
    read (fun t => (t.cst, t.phase, t.dout, t.tcnt))
        (step { tm with cst := cstTx, phase := 9, dout := true, pins := resetting, tcnt := 0xFFFFFFFF }) =
      some (0b000#3, 0#8, false, 0#32) := by decide

/-! ### The sequencer (spec/95_test_vectors.md 2.1, 2.2, 2.4) -/

theorem test_wheel_85_86 : wheel 85 = ⟨0, 255, 0⟩ ∧ wheel 86 = ⟨0, 252, 3⟩ := by decide
theorem test_wheel_170_171 : wheel 170 = ⟨0, 0, 255⟩ ∧ wheel 171 = ⟨3, 0, 252⟩ := by decide
theorem test_wheel_returns : read (·.ret) (exec .wheel { tm with phl := 128 }) = some (.color ⟨0, 126, 129⟩) := by decide
theorem test_hsv_returns : exec .hsv tm = .next { tm with ret := .color (Config.hsv2rgb 0 255 16) } := rfl
theorem test_scale_252_32 : read (·.ret) (exec (.scale 252 32) tm) = some (.channel 31) := by decide
theorem test_scale_254_1 : read (·.ret) (exec (.scale 254 1) tm) = some (.channel 0) := by decide
theorem test_pack :
    pack .rgb 0x12 0x34 0x56 = 0x123456#24 ∧ pack .rbg 0x12 0x34 0x56 = 0x125634#24 ∧
    pack .grb 0x12 0x34 0x56 = 0x341256#24 ∧ pack .gbr 0x12 0x34 0x56 = 0x345612#24 ∧
    pack .brg 0x12 0x34 0x56 = 0x561234#24 ∧ pack .bgr 0x12 0x34 0x56 = 0x563412#24 := by decide
theorem test_word : wordOf .grb ⟨0, 126, 129⟩ 32 = 0x0F0010#24 ∧ wordOf .grb ⟨252, 3, 0⟩ 255 = 0x03FC00#24 := by decide

/-! ### Timer-Paced (spec/95_test_vectors.md 2.6) -/

theorem test_tStart :
    read (fun t => (t.pix, t.shr, t.bitcnt, t.dout, t.crit, t.tstart, t.txs))
        (exec .tStart { tm with cst := cstTx, col := ⟨255, 0, 0⟩, pix := 1 }) =
      some (0#4, 0x00FF00#24, 24#5, true, true, 0xFFFFFFF4#32, 0b01#2) := rfl
theorem test_tStart_fails :
    read (fun t => (t.cst, t.haltCause, t.dout)) (exec .tStart { tm with cst := cstTx, pins := busy }) =
      some (0b111#3, 0b10#2, false) := by decide
theorem test_tHigh_zero :
    read (fun t => (t.dout, t.txs)) (exec .tHigh { tmAt txsTHigh 0 0x00FF00 24 0 with dout := true }) =
      some (false, 0b10#2) := by decide
theorem test_tHigh_one :
    read (fun t => (t.dout, t.txs)) (exec .tHigh { tmAt txsTHigh 0 0xFF0000 24 0 with dout := true }) =
      some (true, 0b01#2) := by decide
theorem test_tLow_next_bit :
    read (fun t => (t.shr, t.bitcnt, t.dout, t.tstart, t.txs)) (exec .tLow (tmAt txsTLow 2 0x00FF00 24 0)) =
      some (0x01FE00#24, 23#5, true, 0xFFFFFFF7#32, 0b01#2) := by decide
theorem test_tLow_next_pixel :
    read (fun t => (t.pix, t.shr, t.bitcnt, t.dout, t.txs)) (exec .tLow (tmAt txsTLow 2 0x800000 1 0)) =
      some (1#4, 0xFF0000#24, 24#5, true, 0b01#2) := by decide
theorem test_tLatch_148 : read (fun t => (t.txs, t.cst)) (exec .tLatch (tmAt txsTLatch 148 0 1 1)) = some (0b11#2, 0b011#3) := by
  decide
theorem test_tLatch_149 : read (fun t => (t.txs, t.cst)) (exec .tLatch (tmAt txsTLatch 149 0 1 1)) = some (0b00#2, 0b100#3) := by
  decide
theorem test_elapsed_wraps : State.elapsed { tm with tstart := 0xFFFFFFFF, tcnt := 1 } = 2#32 := by decide

/-! ### State-Machine (spec/95_test_vectors.md 2.7) -/

theorem test_sStart :
    read (fun t => (t.pix, t.blk, t.txs)) (exec .sStart { smAt txsStart [] estIdle 9 with pix := 2 }) =
      some (0#4, 0#32, 0b01#2) := by decide
theorem test_sStart_fails :
    read (fun t => (t.cst, t.haltCause)) (exec .sStart { smAt txsStart [] estIdle 9 with pins := busy }) =
      some (0b111#3, 0b10#2) := by decide
theorem test_sPush_last :
    read (fun t => (t.fifo, t.blk, t.pix, t.txs)) (exec .sPush { smAt txsSPush [] estLow 9 with pix := 2 }) =
      some ([0x002000#24], 0#32, 2#4, 0b10#2) := by decide
theorem test_sPush_bound :
    read (fun t => (t.cst, t.blk, t.fifo)) (exec .sPush (smAt txsSPush [7] estLow 240)) = some (0b111#3, 240#32, [7#24]) := by
  decide
/-- R207: done wins over an unavailable channel. -/
theorem test_sDrain_done :
    read (fun t => (t.lcnt, t.txs)) (exec .sDrain { smAt txsSDrain [] estIdle 240 with pins := busy, lcnt := 7 }) =
      some (0#32, 0b11#2) := by decide
theorem test_sDrain_blocked :
    read (·.blk) (exec .sDrain { smAt txsSDrain [] estLow 5 with pins := busy }) = some 6#32 := by decide
theorem test_sLatch_398 :
    read (fun t => (t.lcnt, t.cst)) (exec .sLatch { smAt txsSLatch [] estIdle 0 with lcnt := 398 }) =
      some (399#32, 0b011#3) := by decide
theorem test_sLatch_399 :
    read (fun t => (t.txs, t.cst)) (exec .sLatch { smAt txsSLatch [] estIdle 0 with lcnt := 399 }) =
      some (0b00#2, 0b100#3) := by decide
theorem test_eIdle_pops :
    read (fun t => (t.eshr, t.ebit, t.esymt, t.dout, t.est, t.fifo)) (exec .eIdle (engAt estIdle 9 0 0 [5])) =
      some (5#24, 24#5, 0#32, true, 0b01#2, []) := rfl
theorem test_eIdle_disabled :
    read (fun t => (t.est, t.fifo)) (exec .eIdle { engAt estIdle 9 0 0 [5] with pins := busy }) = some (0b00#2, [5#24]) := by
  decide
theorem test_eHigh_zero_ends :
    read (fun t => (t.esymt, t.dout, t.est)) (exec .eHigh { engAt estHigh 1 0 24 [] with dout := true }) =
      some (2#32, false, 0b10#2) := by decide
theorem test_eHigh_one_holds :
    read (fun t => (t.esymt, t.dout, t.est)) (exec .eHigh { engAt estHigh 5 0x800000 24 [] with dout := true }) =
      some (6#32, true, 0b01#2) := by decide
theorem test_eLow_next_bit :
    read (fun t => (t.eshr, t.ebit, t.esymt, t.dout, t.est)) (exec .eLow (engAt estLow 9 0x0F0010 24 [])) =
      some (0x1E0020#24, 23#5, 0#32, true, 0b01#2) := by decide
theorem test_eLow_ends : read (fun t => (t.est, t.dout)) (exec .eLow (engAt estLow 9 0x0F0010 1 [])) = some (0b00#2, false) := by
  decide
/-- R74: in tick 5 of the table, one word in and one out. -/
theorem test_push_and_pop :
    read (fun t => (t.fifo, t.eshr, t.pix))
        (step { smAt txsSPush [0x00FF00] estIdle 0 with cfg := { smCfg with qdepth := 2, npix := 4, scale := 255 }, pix := 1 }) =
      some ([0x00FF00#24], 0x00FF00#24, 2#4) := by decide

/-! ### Wire symbols and the transmit (spec/95_test_vectors.md 2.5, 2.10) -/

theorem test_bit0 : read (fun t => (t.wire, t.dout, t.tcnt)) (exec .bit0 tm) = some ([true, false, false], false, 0xFFFFFFF6#32) := by
  decide
theorem test_bit1 :
    read (·.wire) (exec .bit1 sm) = some [true, true, true, true, true, true, true, false, false, false] := by decide
theorem test_latch :
    read (·.wire) (exec .latch { tm with cfg := { timerCfg with treset := 2 } }) = some [false, false] := by decide
/-- The last bit of `0x000001` is the only 1 bit. -/
theorem test_pixel : read (fun t => t.wire.drop 66) (exec (.pixel 1) tm) = some [true, false, false, true, true, false] := by
  decide
theorem test_transmit_fails :
    read (fun t => (t.ret, t.cst, t.haltCause)) (exec (.transmit [⟨1, 2, 3⟩] 255) { tm with pins := busy }) =
      some (.failure, 0b111#3, 0b10#2) := by decide
/-- No Color is refused; a reserved code is a fault (R95), but with `rst = 1` the state does not matter (R230). -/
theorem test_transmit_stops :
    exec (.transmit [] 255) tm = .refused .illFormedOperands ∧
    exec (.transmit [⟨1, 2, 3⟩] 255) { tm with haltCause := causeReserved } = .fault .reservedHaltCause ∧
    read (fun t => (t.ret, t.cst, t.haltCause))
      (exec (.transmit [⟨1, 2, 3⟩] 255) { tm with haltCause := causeReserved, pins := resetting }) =
      some (.none, 0b000#3, 0b00#2) := ⟨rfl, rfl, by decide⟩

/-! ### Faults -/

theorem test_fault_cst : step { tm with cst := cstReserved } = .fault .reservedCst := rfl
theorem test_fault_est : step { sm with est := estReserved } = .fault .reservedEst := rfl
/-- R95: an operation that runs ticks of its own faults too, and so does a frame. -/
theorem test_fault_pixel : exec (.pixel 0) { tm with cst := cstReserved } = .fault .reservedCst := rfl
theorem test_fault_frame :
    FrameState.frame timerCfg .sent ⟨85, false, causeReserved, []⟩ = .fault .reservedHaltCause := rfl
/-- R8: an operation under an ill-formed configuration is refused too. -/
theorem test_refused_exec : exec .bit0 { tm with cfg := { timerCfg with t0h := 0 } } = .refused .illFormedConfig := rfl
/-- R190: in `SM` a transmit that fails after three symbols leaves those on the trace; in `TIMER` none. -/
theorem test_frame_fails :
    (FrameState.frame { smCfg with scale := 255 } (.failed 3) ⟨85, false, causeNone, []⟩ =
      .next ⟨85, true, 0b10#2, [.bit1, .bit1, .bit1]⟩) ∧
    (FrameState.frame timerCfg (.failed 3) ⟨85, false, causeNone, []⟩ = .next ⟨85, true, 0b10#2, []⟩) := ⟨rfl, rfl⟩
theorem test_refused_config : step { tm with cfg := { timerCfg with npix := 0 } } = .refused .illFormedConfig := rfl

/-! ### Witnesses: the hypotheses of each obligation are met, each clause at a boundary of its range -/

/-- A state every run from which goes on: the step's next state exists. -/
abbrev Steps (s : State) : Prop := ∃ t, step s = .next t

theorem steps_of_ready {s : State} (h : s.Ready) (hr : s.pins.rst = false) : Steps s := ⟨_, step_tick h hr⟩

theorem witness_ResetDominates :
    State.cfg { tm with pins := resetting } = timerCfg ∧ timerCfg.wf = true ∧ resetting.rst = true := by decide

/-- One state meets each of the clauses' hypotheses. -/
theorem witness_IllFormedConfigRefused : Config.wf { timerCfg with npix := 13 } = false ∧ timerCfg.wf = true := by decide

theorem witness_ReservedCodesFault :
    tm.cfg.wf = true ∧ tm.pins.rst = false ∧ tm.CodesRun ∧ sm.CodesRun ∧ sm.cfg.wf = true ∧
    State.CodesRun { tm with est := 0b11#2 } ∧ resetting.rst = true ∧
    sm.cfg.strategy = .sm ∧ (Instr.transmit (List.replicate 12 ⟨0, 0, 0⟩) 255).wf = true ∧ (Instr.pixel 0).wf = true ∧
    FrameState.cause ⟨85, false, 0b11#2, []⟩ = 0b11#2 ∧
    (State.haltCause { tm with haltCause := 0b11#2 } = 0b11#2) ∧
    (State.cst { tm with cst := 0b110#3 } = 0b110#3 ∧ State.haltCause { tm with cst := 0b110#3 } ≠ 0b11#2) ∧
    (State.est { sm with est := 0b11#2 } = 0b11#2 ∧ State.cst { sm with est := 0b11#2 } ≠ 0b110#3 ∧
      State.haltCause { sm with est := 0b11#2 } ≠ 0b11#2) := by decide

theorem witness_StepRunsDecoded :
    (tm.cfg.wf = true ∧ tm.pins.rst = false ∧ tm.haltCause ≠ causeReserved ∧ tm.cfg.strategy = .timer ∧
      decode tm.cfg (.cst tm.cst) = .ok .initchk) ∧
    (sm.cfg.wf = true ∧ sm.pins.rst = false ∧ sm.haltCause ≠ causeReserved ∧ sm.cfg.strategy = .sm ∧
      decode sm.cfg (.cst sm.cst) = .ok .initchk ∧ decode sm.cfg (.est sm.est) = .ok .eIdle) := by decide

theorem witness_DecodeEncode :
    timerCfg.wf = true ∧ (Instr.transmit (List.replicate 12 ⟨0, 0, 0⟩) 255).wf = true ∧ Instr.halt.wf = true := by decide

theorem witness_EncodeDecode :
    timerCfg.wf = true ∧ decode timerCfg (.symbol [true, false, false]) = .ok .bit0 ∧ Instr.bit0 ≠ .latch ∧
    timerCfg.treset ≤ 150 := by decide

/-- Also of `RdphaseResult`, `HsvResult` and `ScaleResult`, whose one hypothesis is a well-formed configuration. -/
theorem witness_InitchkResult :
    timerCfg.wf = true ∧ tm.cfg = timerCfg ∧ tm.pins.initOk = true ∧ State.pins { tm with pins := failing } = failing ∧ failing.initOk = false := by
  decide

theorem witness_SeqResult :
    (timerCfg.wf = true ∧ timerCfg.policy = .wheel) ∧
    (Config.wf { timerCfg with policy := .hsv } = true ∧ Config.policy { timerCfg with policy := .hsv } = .hsv) := by decide

theorem witness_TxRunsSelected : timerCfg.wf = true ∧ smCfg.wf = true ∧ tm.cfg.strategy = .timer ∧ sm.cfg.strategy = .sm := by decide

theorem witness_AdvanceResult : State.cfg { tm with phase := 255 } = timerCfg ∧ timerCfg.wf = true := by decide

theorem witness_WaitframeResult :
    timerCfg.wf = true ∧ (State.ftmr { tm with ftmr := 1 }).toNat ≤ 1 ∧ 1 < (State.ftmr { tm with ftmr := 2 }).toNat := by decide

/-- A halted block steps, in both strategies. -/
theorem witness_HaltAbsorbs :
    Steps { tm with cst := cstHalt, haltCause := causeTxFail } ∧ Steps { sm with cst := cstHalt, haltCause := causeTxFail } ∧
    tm.pins.rst = false ∧ sm.pins.rst = false :=
  ⟨steps_of_ready (by decide) rfl, steps_of_ready (by decide) rfl, rfl, rfl⟩

/-- A step from each position of the loop. -/
theorem witness_CstTransitions :
    Steps tm ∧ Steps { tm with cst := cstRead } ∧ Steps { tm with cst := cstSeq } ∧ Steps { tm with cst := cstTx } ∧
    Steps { tm with cst := cstAdv } ∧ Steps { tm with cst := cstWait, ftmr := 1 } ∧ Steps { tm with cst := cstHalt } ∧
    tm.pins.rst = false :=
  ⟨steps_of_ready (by decide) rfl, steps_of_ready (by decide) rfl, steps_of_ready (by decide) rfl,
    steps_of_ready (by decide) rfl, steps_of_ready (by decide) rfl, steps_of_ready (by decide) rfl,
    steps_of_ready (by decide) rfl, rfl⟩

/-- Steps with and without reset; these meet the hypotheses of `LoopRegisterWriters`. -/
theorem witness_LoopRegisterWriters : Steps { sm with pins := resetting } ∧ Steps { sm with cst := cstAdv } ∧ sm.pins.rst = false :=
  ⟨⟨_, step_reset (by decide) rfl⟩, steps_of_ready (by decide) rfl, rfl⟩

/-- The steps into `HALT`: from `INIT`, from a transmit's start, from a full queue and from the drain at the bound. -/
theorem witness_HaltEntry :
    read (·.cst) (step { tm with pins := failing }) = some cstHalt ∧
    read (·.cst) (step { tm with cst := cstTx, pins := busy }) = some cstHalt ∧
    read (·.cst) (step (smAt txsSPush [7] estLow 240)) = some cstHalt ∧
    read (·.cst) (step { smAt txsSDrain [] estLow 240 with pins := busy }) = some cstHalt ∧
    tm.cst ≠ cstHalt ∧ failing.rst = false ∧ busy.rst = false := by decide

/-- One blocked tick below the bound the block does not halt. -/
theorem witness_HaltExactlyWhen :
    read (·.cst) (step (smAt txsSPush [7] estLow 239)) = some cstTx ∧
    read (·.cst) (step (smAt txsSPush [7] estLow 240)) = some cstHalt ∧
    (smAt txsSPush [7] estLow 240).pins.rst = false ∧ (smAt txsSPush [7] estLow 240).cst ≠ cstHalt := by decide

theorem witness_InitFailDark :
    smCfg.wf = true ∧ failing.initOk = false ∧
    ({ State.resetWith smCfg 5 failing with script := [] } : State).NoResetFor (7 + 1) :=
  ⟨by decide, rfl, noReset_hold rfl rfl _⟩

theorem witness_TcntCounts : Steps tm ∧ Steps { tm with tcnt := 0xFFFFFFFF } ∧ Steps { sm with pins := resetting } :=
  ⟨steps_of_ready (by decide) rfl, steps_of_ready (by decide) rfl, ⟨_, step_reset (by decide) rfl⟩⟩

theorem witness_WheelResult :
    timerCfg.wf = true ∧ (85#8 : Byte).toNat ≤ 85 ∧ (86 ≤ (86#8 : Byte).toNat ∧ (86#8 : Byte).toNat ≤ 170) ∧
    (86 ≤ (170#8 : Byte).toNat ∧ (170#8 : Byte).toNat ≤ 170) ∧ 171 ≤ (171#8 : Byte).toNat := by decide

theorem witness_WheelContinuous : (254#8 : Byte) ≠ 255#8 ∧ wheel 0#8 = wheel 255#8 := by decide

theorem witness_ScaleLaws : (0#8 : Byte).toNat ≤ (255#8 : Byte).toNat ∧ (254#8 : Byte).toNat ≤ (254#8 : Byte).toNat := by decide

theorem witness_TStartResult : timerCfg.wf = true ∧ tm.pins.chanAvail = true ∧ busy.chanAvail = false := by decide

/-- The last high tick and the one before it, of a 1 bit and of a 0 bit. -/
theorem witness_THighResult :
    timerCfg.wf = true ∧ (State.elapsed (tmAt txsTHigh 1 0x800000 24 0)).toNat + 1 = timerCfg.t1h ∧
    (State.elapsed (tmAt txsTHigh 0 0x800000 24 0)).toNat + 1 < timerCfg.t1h ∧
    (State.elapsed (tmAt txsTHigh 0 0 24 0)).toNat + 1 = timerCfg.t0h ∧
    (State.shr (tmAt txsTHigh 1 0x800000 24 0)).getLsbD 23 = true ∧ (State.shr (tmAt txsTHigh 0 0 24 0)).getLsbD 23 = false := by
  decide

/-- The last tick of a symbol and the one before; two bits, one bit and no bit left; a pixel left and the last. -/
theorem witness_TLowResult :
    timerCfg.wf = true ∧ (State.elapsed (tmAt txsTLow 1 0 24 0)).toNat + 1 < timerCfg.total ∧
    timerCfg.total ≤ (State.elapsed (tmAt txsTLow 2 0 24 0)).toNat + 1 ∧
    1 < (State.bitcnt (tmAt txsTLow 2 0 2 0)).toNat ∧
    ((State.bitcnt (tmAt txsTLow 2 0 1 0)).toNat ≤ 1 ∧ (State.pix (tmAt txsTLow 2 0 1 0)).toNat + 1 < timerCfg.npix) ∧
    ((State.bitcnt (tmAt txsTLow 2 0 0 1)).toNat ≤ 1 ∧ timerCfg.npix ≤ (State.pix (tmAt txsTLow 2 0 0 1)).toNat + 1) := by
  decide

theorem witness_TLatchResult :
    timerCfg.wf = true ∧ timerCfg.treset ≤ (State.elapsed (tmAt txsTLatch 149 0 1 1)).toNat + 1 ∧
    (State.elapsed (tmAt txsTLatch 148 0 1 1)).toNat + 1 < timerCfg.treset := by decide

theorem witness_ClockShift : Steps (tmAt txsTLow 2 0 24 0) ∧ (tmAt txsTLow 2 0 24 0).pins.rst = false :=
  ⟨steps_of_ready (by decide) rfl, rfl⟩

theorem witness_InputsReadOnlyWhere :
    (Steps { tm with cst := cstRead } ∧ ({ tm with cst := cstRead } : State).cst ≠ cstInit) ∧
    (Steps (tmAt txsTHigh 1 0 24 0) ∧ (tmAt txsTHigh 1 0 24 0).cfg.strategy = .timer ∧
      ¬ ((tmAt txsTHigh 1 0 24 0).cst = cstTx ∧ (tmAt txsTHigh 1 0 24 0).txs = txsStart)) :=
  ⟨⟨steps_of_ready (by decide) rfl, by decide⟩, steps_of_ready (by decide) rfl, by decide, by decide⟩

theorem witness_TimerSymbolRun :
    let s := { tmAt txsTHigh 0 0x800000 2 0 with dout := true }
    s.cfg.wf = true ∧ s.cfg.strategy = .timer ∧ s.haltCause ≠ causeReserved ∧ s.cst = cstTx ∧ s.txs = txsTHigh ∧
    s.tstart = s.tcnt ∧ s.dout = true ∧ s.NoResetFor s.cfg.total ∧
    1 < s.bitcnt.toNat :=
  ⟨by decide, rfl, by decide, rfl, rfl, by decide, rfl, noReset_hold rfl rfl _, by decide⟩

theorem witness_TimerSymbolRun_pixel :
    let s := { tmAt txsTHigh 0 0x800000 1 0 with dout := true }
    s.cfg.wf = true ∧ s.cfg.strategy = .timer ∧ s.haltCause ≠ causeReserved ∧ s.cst = cstTx ∧ s.txs = txsTHigh ∧
    s.tstart = s.tcnt ∧ s.dout = true ∧ s.NoResetFor s.cfg.total ∧
    s.bitcnt.toNat ≤ 1 ∧ s.pix.toNat + 1 < s.cfg.npix :=
  ⟨by decide, rfl, by decide, rfl, rfl, by decide, rfl, noReset_hold rfl rfl _, by decide, by decide⟩

theorem witness_TimerSymbolRun_latch :
    let s := { tmAt txsTHigh 0 0x800000 0 1 with dout := true }
    s.cfg.wf = true ∧ s.cfg.strategy = .timer ∧ s.haltCause ≠ causeReserved ∧ s.cst = cstTx ∧ s.txs = txsTHigh ∧
    s.tstart = s.tcnt ∧ s.dout = true ∧ s.NoResetFor s.cfg.total ∧
    s.bitcnt.toNat ≤ 1 ∧ s.cfg.npix ≤ s.pix.toNat + 1 :=
  ⟨by decide, rfl, by decide, rfl, rfl, by decide, rfl, noReset_hold rfl rfl _, by decide, by decide⟩

theorem witness_SStartResult : smCfg.wf = true ∧ sm.pins.chanAvail = true ∧ busy.chanAvail = false := by decide

/-- Room for one word and a full queue; the last pixel but one and the last; at the bound and one below. -/
theorem witness_SPushResult :
    smCfg.wf = true ∧ (smAt txsSPush [] estIdle 0).fifo.length < smCfg.qdepth ∧ smCfg.qdepth ≤ (smAt txsSPush [7] estLow 240).fifo.length ∧
    (State.pix { smAt txsSPush [] estIdle 0 with pix := 1 }).toNat + 1 < smCfg.npix ∧
    smCfg.npix ≤ (State.pix { smAt txsSPush [] estIdle 0 with pix := 2 }).toNat + 1 ∧
    smCfg.blockBound ≤ (smAt txsSPush [7] estLow 240).blk.toNat ∧ (smAt txsSPush [7] estLow 239).blk.toNat < smCfg.blockBound := by
  decide

theorem witness_SDrainResult :
    smCfg.wf = true ∧ ((smAt txsSDrain [] 0b00#2 0).fifo = [] ∧ (smAt txsSDrain [] 0b00#2 0).est = 0b00#2) ∧
    ¬ ((smAt txsSDrain [] estLow 240).fifo = [] ∧ (smAt txsSDrain [] estLow 240).est = 0b00#2) ∧
    ¬ ((smAt txsSDrain [7] estIdle 239).fifo = [] ∧ (smAt txsSDrain [7] estIdle 239).est = 0b00#2) ∧
    fair.chanAvail = true ∧ busy.chanAvail = false ∧ smCfg.blockBound ≤ (smAt txsSDrain [] estLow 240).blk.toNat ∧
    (smAt txsSDrain [7] estIdle 239).blk.toNat < smCfg.blockBound := by decide

theorem witness_SLatchResult :
    smCfg.wf = true ∧ smCfg.treset ≤ (State.lcnt { sm with lcnt := 399 }).toNat + 1 ∧ (State.lcnt { sm with lcnt := 398 }).toNat + 1 < smCfg.treset := by
  decide

theorem witness_EIdleResult :
    smCfg.wf = true ∧ busy.chanAvail = false ∧ (engAt estIdle 0 0 0 []).pins.chanAvail = true ∧ (engAt estIdle 0 0 0 []).fifo = [] ∧
    (engAt estIdle 0 0 0 [5]).fifo = [5#24] := by decide

theorem witness_EHighResult :
    smCfg.wf = true ∧ (engAt estHigh 6 0x800000 24 []).esymt.toNat + 1 = smCfg.t1h ∧ (engAt estHigh 5 0x800000 24 []).esymt.toNat + 1 < smCfg.t1h ∧
    (engAt estHigh 1 0 24 []).esymt.toNat + 1 = smCfg.t0h ∧ (engAt estHigh 0 0 24 []).esymt.toNat + 1 < smCfg.t0h := by decide

theorem witness_ELowResult :
    smCfg.wf = true ∧ (engAt estLow 8 0 24 []).esymt.toNat + 1 < smCfg.total ∧ smCfg.total ≤ (engAt estLow 9 0 24 []).esymt.toNat + 1 ∧
    1 < (engAt estLow 9 0 2 []).ebit.toNat ∧ ((engAt estLow 9 0 1 []).ebit.toNat ≤ 1 ∧ (engAt estLow 9 0 1 []).fifo = []) ∧
    ((engAt estLow 9 0 0 [5]).ebit.toNat ≤ 1 ∧ (engAt estLow 9 0 0 [5]).fifo = [5#24]) := by decide

/-- A tick with a push and a pop, and one with neither. -/
theorem witness_QueueSameTick :
    Steps (smAt txsSPush [] estIdle 0) ∧ Steps { smAt txsSPush [7] estLow 0 with ebit := 1, esymt := 9 } ∧
    (smAt txsSPush [] estIdle 0).cfg.strategy = .sm ∧ (smAt txsSPush [] estIdle 0).pins.rst = false :=
  ⟨steps_of_ready (by decide) rfl, steps_of_ready (by decide) rfl, rfl, rfl⟩

/-- Two states that agree on the engine's side and differ on the controller's. -/
theorem witness_EngineIgnoresController :
    let s := engAt estIdle 0 0 0 [5]
    let s' := { s with cst := cstWait, ftmr := 3 }
    Steps s ∧ Steps s' ∧ s.cfg.strategy = .sm ∧ s.pins.rst = false ∧ s'.pins.rst = false ∧ s'.cfg = s.cfg ∧ s'.fifo = s.fifo ∧
    s'.dout = s.dout ∧ s'.est = s.est ∧ s'.eshr = s.eshr ∧ s'.ebit = s.ebit ∧ s'.esymt = s.esymt ∧
    s'.pins.chanAvail = s.pins.chanAvail :=
  ⟨steps_of_ready (by decide) rfl, steps_of_ready (by decide) rfl, rfl, rfl, rfl, rfl, rfl, rfl, rfl, rfl, rfl, rfl, rfl⟩

theorem witness_EngineSymbolRun :
    let s := { engAt estHigh 0 0x800000 2 [] with dout := true }
    s.cfg.wf = true ∧ s.cfg.strategy = .sm ∧ s.CodesLegal ∧ s.est = estHigh ∧ s.esymt = 0 ∧ s.dout = true ∧
    s.NoResetFor s.cfg.total ∧ s.ChannelFor s.cfg.total ∧ 1 < s.ebit.toNat :=
  ⟨by decide, rfl, by decide, rfl, rfl, rfl, noReset_hold rfl rfl _, channel_hold rfl rfl _, by decide⟩

theorem witness_SymbolResults :
    tm.cfg.wf = true ∧ tm.CodesRun ∧ sm.CodesRun ∧ 2 < tm.cfg.total ∧ sm.cfg.wf = true ∧ 9 < sm.cfg.total := by decide

/-- Bit 23 is the first on the wire, bit 0 the last. -/
theorem witness_PixelResult :
    tm.cfg.wf = true ∧ tm.CodesRun ∧ 0 < tm.cfg.total ∧ (0x800000#24).getLsbD (23 - 0) = true ∧ (1#24).getLsbD (23 - 23) = true ∧ 23 < 24 := by
  decide

theorem witness_TransmitTimer :
    let s := { tm with cst := cstTx }
    s.cfg.wf = true ∧ (Instr.transmit [⟨255, 0, 0⟩] 255).wf = true ∧ s.CodesRun ∧ s.cfg.strategy = .timer ∧ s.pins.chanAvail = true ∧
    s.NoResetFor (1 + 24 * 1 * s.cfg.total + s.cfg.treset) :=
  ⟨by decide, by decide, by decide, rfl, rfl, noReset_hold rfl rfl _⟩

theorem witness_TransmitSm :
    let s := { sm with cst := cstTx }
    s.cfg.wf = true ∧ (Instr.transmit [⟨255, 0, 0⟩, ⟨0, 1, 2⟩] 255).wf = true ∧ s.CodesRun ∧ s.cfg.strategy = .sm ∧ s.EngineQuiet ∧
    s.dout = false ∧ 24 * s.cfg.total ≤ s.cfg.blockBound ∧
    s.NoResetFor (4 + 24 * 2 * s.cfg.total + s.cfg.treset) ∧ s.ChannelFor (4 + 24 * 2 * s.cfg.total + s.cfg.treset) :=
  ⟨by decide, by decide, by decide, rfl, by decide, rfl, by decide, noReset_hold rfl rfl _, channel_hold rfl rfl _⟩

/-- One and twelve Colors, none and thirteen; the engine's reserved code. -/
theorem witness_TransmitFails :
    smCfg.wf = true ∧ 1 ≤ (List.replicate 1 (⟨0, 0, 0⟩ : Color)).length ∧ (List.replicate 12 (⟨0, 0, 0⟩ : Color)).length ≤ 12 ∧
    ([] : List Color).length = 0 ∧ 12 < (List.replicate 13 (⟨0, 0, 0⟩ : Color)).length ∧
    sm.cfg.strategy = .sm ∧ State.CodesRun { sm with pins := busy } ∧ resetting.rst = true ∧ busy.chanAvail = false ∧ busy.rst = false ∧
    (State.est { sm with est := estReserved } = estReserved ∧ State.pins { sm with est := estReserved } = fair ∧
      fair.rst = false ∧ sm.haltCause ≠ causeReserved ∧ sm.cst ≠ cstReserved) := by decide

theorem witness_WaitLasts :
    let s := { sm with cst := cstWait, ftmr := 1 }
    s.cfg.wf = true ∧ s.CodesLegal ∧ s.cst = cstWait ∧ 1 ≤ s.ftmr.toNat ∧ s.EngineQuiet ∧ s.dout = false ∧
    s.NoResetFor s.ftmr.toNat :=
  ⟨by decide, by decide, rfl, by decide, by decide, rfl, noReset_hold rfl rfl _⟩

theorem witness_FirstTicks :
    (tm = { State.resetWith timerCfg 0xFFFFFFF3#32 fair with script := [] } ∧ timerCfg.wf = true ∧ fair.initOk = true ∧
      tm.NoResetFor 6 ∧ tm.ChannelFor 6 ∧ timerCfg.strategy = .timer) ∧
    (sm = { State.resetWith smCfg 5 fair with script := [] } ∧ smCfg.wf = true ∧ sm.NoResetFor 6 ∧ sm.ChannelFor 6 ∧
      smCfg.strategy = .sm) :=
  ⟨⟨rfl, by decide, rfl, noReset_hold rfl rfl _, channel_hold rfl rfl _, rfl⟩,
    rfl, by decide, noReset_hold rfl rfl _, channel_hold rfl rfl _, rfl⟩

theorem witness_FramePeriod_timer :
    let s := { tm with cst := cstRead }
    let n := 24 * s.cfg.npix * s.cfg.total + s.cfg.treset + s.cfg.frameTicks + 4
    s.cfg.wf = true ∧ s.CodesLegal ∧ s.cst = cstRead ∧ s.dout = false ∧ s.cfg.strategy = .timer ∧ s.NoResetFor n ∧
    s.ChannelFor n :=
  ⟨by decide, by decide, rfl, rfl, rfl, noReset_hold rfl rfl _, channel_hold rfl rfl _⟩

/-- `BLOCK_BOUND` is exactly `24·TOTAL` here. -/
theorem witness_FramePeriod_sm :
    let s := { sm with cst := cstRead }
    let n := 24 * s.cfg.npix * s.cfg.total + s.cfg.treset + s.cfg.frameTicks + 7
    s.cfg.wf = true ∧ s.CodesLegal ∧ s.cst = cstRead ∧ s.dout = false ∧ s.cfg.strategy = .sm ∧ s.EngineQuiet ∧
    24 * s.cfg.total ≤ s.cfg.blockBound ∧ s.NoResetFor n ∧ s.ChannelFor n :=
  ⟨by decide, by decide, rfl, rfl, rfl, by decide, by decide, noReset_hold rfl rfl _, channel_hold rfl rfl _⟩

/-- Both strategies. -/
theorem witness_FramePhases : timerCfg.wf = true ∧ smCfg.wf = true ∧ timerCfg.strategy = .timer := by decide

theorem witness_InvariantsAtReset : timerCfg.wf = true ∧ smCfg.wf = true := by decide

/-- A block in the middle of a frame meets every invariant and steps: the hypotheses of `CodesAndCauseKept`,
`QueueKept`, `LineKept`, `QuietKept` and `CountersKept`, in `TIMER`. -/
theorem witness_invariants_timer :
    let s := { tmAt txsTLow 2 0xFF0000 24 0 with crit := true }
    Steps s ∧ s.CodesLegal ∧ s.CauseMatches ∧ s.QueueBounded ∧ s.LineTimer ∧ s.LineSm ∧ s.QuietOutsideTx ∧
    s.CountersInRange ∧ s.PixInFrame ∧ s.PacedInTime :=
  ⟨steps_of_ready (by decide) rfl, by decide, by decide, by decide, by decide, by decide, by decide, by decide, by decide,
    by decide⟩

/-- The same in `SM`. -/
theorem witness_invariants_sm :
    let s := { smAt txsSPush [7] estHigh 3 with dout := true, esymt := 1 }
    Steps s ∧ s.CodesLegal ∧ s.CauseMatches ∧ s.QueueBounded ∧ s.LineTimer ∧ s.LineSm ∧ s.QuietOutsideTx ∧
    s.CountersInRange ∧ s.PixInFrame ∧ s.PacedInTime :=
  ⟨steps_of_ready (by decide) rfl, by decide, by decide, by decide, by decide, by decide, by decide, by decide, by decide,
    by decide⟩

end Sys2Proof.Tests
end

/-! ### Which configurations have a meaning (spec/00_scope.md R8) -/

namespace Sys2Proof

/-- The checks of R8 as one conjunction. -/
theorem Config.wf_iff (cfg : Config) :
    cfg.wf = true ↔
      (1 ≤ cfg.t0h ∧ cfg.t0h < cfg.t1h ∧ cfg.t1h < cfg.total ∧ cfg.total < 2 ^ 32 ∧
        1 ≤ cfg.treset ∧ cfg.treset < 2 ^ 32 ∧ 1 ≤ cfg.frameTicks ∧ cfg.frameTicks < 2 ^ 32 ∧
        1 ≤ cfg.npix ∧ cfg.npix ≤ 12 ∧
        (cfg.strategy = .sm → 1 ≤ cfg.qdepth ∧ cfg.blockBound < 2 ^ 32)) := by
  cases hs : cfg.strategy <;>
    simp [Config.wf, Config.wfBit, Config.wfInterval, Config.wfPixels, Config.wfQueue, hs, and_assoc]

end Sys2Proof

namespace Sys2Proof.Machine

/-- Under an ill-formed configuration every operation is refused by name. -/
theorem exec_refused_of_wf_false {s : State} (h : s.cfg.wf = false) (i : Instr) :
    exec i s = .refused .illFormedConfig := by
  cases i <;> exact underWf_refused h _

/-- Ticks under the look for reserved codes have a next state or are the fault of the code held. -/
theorem next_or_fault_of_underCodes {s t : State} {o : Host.Outcome State Fault Refusal}
    (ho : o = s.underCodes (.next t)) :
    (∃ u, o = .next u) ∨ ∃ x, s.reservedCode = some x ∧ o = .fault x := by
  cases h : s.reservedCode with
  | none => exact .inl ⟨t, ho.trans (underCodes_ok h _)⟩
  | some x => exact .inr ⟨x, rfl, ho.trans (underCodes_fault h _)⟩

/-- Every outcome of an operation under a well-formed configuration: a next state, the fault of a reserved code, or
the refusal of a `TRANSMIT` whose Colors are none or more than 12. -/
theorem exec_cases {s : State} (hwf : s.cfg.wf = true) (i : Instr) :
    (∃ t, exec i s = .next t) ∨
    (∃ x, s.reservedCode = some x ∧ exec i s = .fault x) ∨
    (i.wf = false ∧ exec i s = .refused .illFormedOperands) := by
  cases i with
  | bit0 | bit1 | latch | pixel => exact Or.imp_right .inl (next_or_fault_of_underCodes (underWf_ok hwf _))
  | transmit colors sc =>
    have hx : exec (.transmit colors sc) s = execTransmit colors sc s := rfl
    rw [execTransmit, underWf_ok hwf] at hx
    split at hx
    next hbad => exact .inr (.inr ⟨hbad, hx⟩)
    next =>
      split at hx
      next => exact .inl ⟨_, hx⟩
      next => exact Or.imp_right .inl (next_or_fault_of_underCodes hx)
  | _ => exact .inl ⟨_, underWf_ok hwf _⟩

/-- An operation refuses a well-formed configuration for its operands only. -/
theorem exec_ne_illFormedConfig {s : State} (hwf : s.cfg.wf = true) (i : Instr) :
    exec i s ≠ .refused .illFormedConfig := by
  rcases exec_cases hwf i with ⟨t, h⟩ | ⟨x, -, h⟩ | ⟨-, h⟩ <;> simp [h]

/-! ### What a tick selects and executes -/

/-- The fetch faults with exactly the reserved code the state holds (spec/30_encoding.md R95). -/
theorem fetch_of_reservedCode {s : State} {x : Fault} (h : s.reservedCode = some x) : s.fetch = .error x := by
  unfold State.reservedCode at h
  split_ifs at h with hh hc he <;> cases h
  · simp [State.fetch, hh]
  · simp [State.fetch, hh, State.ctlCode, decode, hc, decodeCst_reserved]
  · obtain ⟨i, hi⟩ := decodeCst_ok hc
    simp [State.fetch, hh, State.ctlCode, decode, hi, he.1, he.2, decodeEst_reserved]

/-- A step without reset from a reserved code is its fault. -/
theorem step_of_reservedCode {s : State} {x : Fault} (hwf : s.cfg.wf = true) (hr : s.pins.rst = false)
    (h : s.reservedCode = some x) : step s = .fault x := by
  simp [step, hwf, hr, fetch_of_reservedCode h]

theorem step_refused_of_wf_false {s : State} (h : s.cfg.wf = false) : step s = .refused .illFormedConfig := by
  simp [step, h]

/-- A step of a well-formed configuration resets, ticks or faults. -/
theorem step_ne_refused {s : State} (hwf : s.cfg.wf = true) (r : Refusal) : step s ≠ .refused r := by
  cases hr : s.pins.rst with
  | true => simp [step_reset hwf hr]
  | false =>
    cases hx : s.reservedCode with
    | some x => simp [step_of_reservedCode hwf hr hx]
    | none => simp [step_tick ⟨hwf, reservedCode_none.mp hx⟩ hr]

/-- In `TIMER` a step is the tick of the operation `CST` decodes to (R89). -/
theorem step_timer {s : State} {i : Instr} (hwf : s.cfg.wf = true) (hr : s.pins.rst = false)
    (hh : s.haltCause ≠ causeReserved) (hi : decode s.cfg s.ctlCode = .ok i) (hs : s.cfg.strategy = .timer) :
    step s = s.tickOf (exec i s) none := by
  have hf : s.fetch = .ok (i, none) := by simp [State.fetch, hh, hi, hs]
  simp [step, hwf, hr, hf]

/-- In `SM` a step is the tick of that operation and of the engine's, the one `EST` decodes to (R92). -/
theorem step_sm {s : State} {i j : Instr} (hwf : s.cfg.wf = true) (hr : s.pins.rst = false)
    (hh : s.haltCause ≠ causeReserved) (hi : decode s.cfg s.ctlCode = .ok i) (hs : s.cfg.strategy = .sm)
    (hj : decode s.cfg (.est s.est) = .ok j) :
    step s = s.tickOf (exec i s) (some (exec j s)) := by
  have hf : s.fetch = .ok (i, some j) := by simp [State.fetch, hh, hi, hs, hj]
  simp [step, hwf, hr, hf]

/-! ### Frames -/

/-- A frame is refused for an ill-formed configuration and for nothing else. -/
theorem frame_refused_iff (cfg : Config) (e : FrameEvent) (f : FrameState) :
    cfg.wf = false ↔ FrameState.frame cfg e f = .refused .illFormedConfig := by
  refine ⟨fun h => by simp [FrameState.frame, h], fun h => ?_⟩
  unfold FrameState.frame at h
  split_ifs at h with hwf
  · exact hwf
  · cases e <;> cases h

/-! ### The obligations -/

/-- Settles O4: the checks are R8's, and the refusal stands in `step`, in every operation and in the frame. -/
theorem illFormedConfigRefused : Obligations.IllFormedConfigRefused :=
  ⟨Config.wf_iff,
    fun _ h => ⟨step_refused_of_wf_false h, exec_refused_of_wf_false h⟩,
    fun _ r hwf => step_ne_refused hwf r,
    fun _ i hwf => exec_ne_illFormedConfig hwf i,
    frame_refused_iff⟩

/-- Settles O6: the fetch selects the decoded operations, each has a next state, and the end of the tick joins them. -/
theorem stepRunsDecoded : Obligations.StepRunsDecoded := by
  intro s i hwf hr hh hi
  have hc : exec i s = .next s.ctlPart := exec_of_decodeCst hwf hi
  refine ⟨fun hs => ?_, fun hs j hj => ?_⟩
  · have hstep := step_timer hwf hr hh hi hs
    exact ⟨hstep, _, hc, by rw [hstep, hc]; rfl⟩
  · have he : exec j s = .next s.engineTick := exec_of_decodeEst hwf hj
    have hstep := step_sm hwf hr hh hi hs hj
    exact ⟨hstep, _, _, hc, he, by rw [hstep, hc, he]; rfl⟩

end Sys2Proof.Machine

namespace Sys2Proof.Machine

/-! ### The reset state, by register (spec/10_state.md R44) -/

section ResetState

variable (cfg : Config) (tcnt : Word32) (pins : Pins)

@[simp] theorem State.resetWith_cfg : (State.resetWith cfg tcnt pins).cfg = cfg := rfl
@[simp] theorem State.resetWith_phase : (State.resetWith cfg tcnt pins).phase = cfg.phaseInit := rfl
@[simp] theorem State.resetWith_cst : (State.resetWith cfg tcnt pins).cst = cstInit := rfl
@[simp] theorem State.resetWith_txs : (State.resetWith cfg tcnt pins).txs = txsStart := rfl
@[simp] theorem State.resetWith_pix : (State.resetWith cfg tcnt pins).pix = 0 := rfl
@[simp] theorem State.resetWith_ftmr : (State.resetWith cfg tcnt pins).ftmr = 0 := rfl
@[simp] theorem State.resetWith_bitcnt : (State.resetWith cfg tcnt pins).bitcnt = 0 := rfl
@[simp] theorem State.resetWith_tcnt : (State.resetWith cfg tcnt pins).tcnt = tcnt := rfl
@[simp] theorem State.resetWith_lcnt : (State.resetWith cfg tcnt pins).lcnt = 0 := rfl
@[simp] theorem State.resetWith_blk : (State.resetWith cfg tcnt pins).blk = 0 := rfl
@[simp] theorem State.resetWith_dout : (State.resetWith cfg tcnt pins).dout = false := rfl
@[simp] theorem State.resetWith_crit : (State.resetWith cfg tcnt pins).crit = false := rfl
@[simp] theorem State.resetWith_haltCause : (State.resetWith cfg tcnt pins).haltCause = causeNone := rfl
@[simp] theorem State.resetWith_fifo : (State.resetWith cfg tcnt pins).fifo = [] := rfl
@[simp] theorem State.resetWith_est : (State.resetWith cfg tcnt pins).est = estIdle := rfl
@[simp] theorem State.resetWith_ebit : (State.resetWith cfg tcnt pins).ebit = 0 := rfl
@[simp] theorem State.resetWith_esymt : (State.resetWith cfg tcnt pins).esymt = 0 := rfl

theorem codesLegal_resetWith : (State.resetWith cfg tcnt pins).CodesLegal := by
  simp [State.CodesLegal]

/-- The block starts in `INIT`, with no cause recorded. -/
theorem causeMatches_resetWith : (State.resetWith cfg tcnt pins).CauseMatches := by
  simp [State.CauseMatches]

theorem queueBounded_resetWith : (State.resetWith cfg tcnt pins).QueueBounded := by
  simp [State.QueueBounded]

/-- The block starts outside `TX`, with the line and `CRIT` low. -/
theorem lineTimer_resetWith : (State.resetWith cfg tcnt pins).LineTimer := by
  simp [State.LineTimer]

/-- The engine starts idle, with the line and `CRIT` low. -/
theorem lineSm_resetWith : (State.resetWith cfg tcnt pins).LineSm := by
  simp [State.LineSm]

theorem quietOutsideTx_resetWith : (State.resetWith cfg tcnt pins).QuietOutsideTx :=
  fun _ _ => ⟨rfl, rfl⟩

/-- Every counter starts at 0 (log entry 3), and `TRESET` and `TOTAL` are at least 1 (R8). -/
theorem countersInRange_resetWith (hwf : cfg.wf = true) : (State.resetWith cfg tcnt pins).CountersInRange := by
  have htotal : 0 < cfg.total := by have := Config.wf_bit hwf; omega
  have htreset : 0 < cfg.treset := (Config.wf_interval hwf).1
  simp [State.CountersInRange, htotal, htreset]

/-! The last two are claims about `TX`, and the block starts in `INIT`. -/

theorem pixInFrame_resetWith : (State.resetWith cfg tcnt pins).PixInFrame := by
  simp [State.PixInFrame]

theorem pacedInTime_resetWith : (State.resetWith cfg tcnt pins).PacedInTime := by
  simp [State.PacedInTime]

end ResetState

/-! ### The ports (spec/10_state.md R41) -/

theorem State.halted_iff (s : State) : s.halted = true ↔ s.cst = cstHalt := beq_iff_eq

/-! ### What the controller's part of a tick writes of the loop's registers -/

/-- Everything the controller's part of a tick can do (spec/42_animation_loop.md R181 to R187). -/
theorem ctlPart_cases (s : State) :
    (s.cst = cstInit ∧ s.pins.initOk = true ∧ s.ctlPart = s.goTo cstRead) ∨
    (s.cst = cstInit ∧ s.pins.initOk = false ∧ s.ctlPart = s.raiseHalt causeInitFail) ∨
    (s.cst = cstRead ∧ s.ctlPart = ({ s with phl := s.phase } : State).goTo cstSeq) ∨
    (s.cst = cstSeq ∧
      s.ctlPart = ({ s with col := sequencer s.cfg s.phl, txs := txsStart } : State).goTo cstTx) ∨
    (s.cst = cstTx ∧ s.ctlPart = s.txTick s.frameFeed) ∨
    (s.cst = cstAdv ∧
      s.ctlPart =
        ({ s with phase := s.phase + 1, ftmr := BitVec.ofNat 32 s.cfg.frameTicks } : State).goTo cstWait) ∨
    (s.cst = cstWait ∧ s.ftmr.toNat ≤ 1 ∧ s.ctlPart = s.goTo cstRead) ∨
    (s.cst = cstWait ∧ 1 < s.ftmr.toNat ∧ s.ctlPart = { s with ftmr := s.ftmr - 1 }) ∨
    ((s.cst = cstHalt ∨ s.cst = cstReserved) ∧ s.ctlPart = s) := by
  unfold State.ctlPart
  by_cases hres : s.cst = cstReserved
  · simp [hres]
  rcases cst_cases s.cst hres with h | h | h | h | h | h | h
  · cases hi : s.pins.initOk <;> simp [h]
  · simp [h]
  · simp [h]
  · simp [h]
  · simp [h]
  · by_cases hf : s.ftmr.toNat ≤ 1
    · simp [h, hf]
    · simp [h, hf, Nat.lt_of_not_le hf]
  · simp [h]

/-- The loop's registers after the controller's part: `PHASE` moves in `ADV` (R21), `PHL` in `READ` (R22), `COL` in
`SEQ` at most (R23), `FTMR` in `ADV` and `WAIT` at most (R27). -/
theorem ctlPart_loopRegisters (s : State) :
    (s.ctlPart.phase = if s.cst = cstAdv then s.phase + 1 else s.phase) ∧
    (s.ctlPart.phl = if s.cst = cstRead then s.phase else s.phl) ∧
    (s.cst ≠ cstSeq → s.ctlPart.col = s.col) ∧
    (s.cst ≠ cstAdv → s.cst ≠ cstWait → s.ctlPart.ftmr = s.ftmr) := by
  obtain ⟨-, hphase, hphl, hcol, hftmr, -⟩ := txTick_frame s s.frameFeed
  rcases ctlPart_cases s with ⟨hc, -, h⟩ | ⟨hc, -, h⟩ | ⟨hc, h⟩ | ⟨hc, h⟩ | ⟨hc, h⟩ | ⟨hc, h⟩ | ⟨hc, -, h⟩ |
    ⟨hc, -, h⟩ | ⟨hc | hc, h⟩ <;> rw [h] <;> simp [hc, hphase, hphl, hcol, hftmr]

/-! ### A shift of the clock (spec/41_bit_serializer.md R142)

Every operation commutes with the shift: the elapsed time is a difference, and the only value of `TCNT` an operation
records is the next `TSTART`. -/

/-- `TCNT` and `TSTART` moved by one amount. -/
def State.shiftClock (s : State) (d : Word32) : State := { s with tcnt := s.tcnt + d, tstart := s.tstart + d }

section ClockShift

variable (s : State) (d : Word32) (f : Feed)

@[simp] theorem State.shiftClock_cfg : (s.shiftClock d).cfg = s.cfg := rfl

@[simp] theorem State.shiftClock_elapsed : (s.shiftClock d).elapsed = s.elapsed :=
  add_sub_add_right_eq_sub s.tcnt s.tstart d

/-- A choice between two updates is shifted branch by branch. -/
theorem shiftClock_ite (p : Prop) [Decidable p] (a b : State) :
    (if p then a else b).shiftClock d = if p then a.shiftClock d else b.shiftClock d :=
  apply_ite (·.shiftClock d) p a b

theorem startSymbol_shiftClock : (s.shiftClock d).startSymbol = s.startSymbol.shiftClock d := by
  simp only [State.startSymbol, State.shiftClock, add_right_comm]

theorem setCrit_shiftClock (b : Bool) : (s.shiftClock d).setCrit b = (s.setCrit b).shiftClock d := rfl

theorem timerStart_shiftClock : (s.shiftClock d).timerStart f = (s.timerStart f).shiftClock d := by
  simp only [State.timerStart, shiftClock_ite, ← setCrit_shiftClock, ← startSymbol_shiftClock]
  rfl

theorem timerHigh_shiftClock : (s.shiftClock d).timerHigh = s.timerHigh.shiftClock d := by
  simp only [State.timerHigh, shiftClock_ite, State.shiftClock_elapsed]
  rfl

theorem timerLow_shiftClock : (s.shiftClock d).timerLow f = (s.timerLow f).shiftClock d := by
  simp only [State.timerLow, shiftClock_ite, ← startSymbol_shiftClock, State.shiftClock_elapsed]
  have hlatch : ({ (s.shiftClock d).setCrit false with tstart := (s.shiftClock d).tcnt + 1, txs := txsTLatch } : State) =
      ({ s.setCrit false with tstart := s.tcnt + 1, txs := txsTLatch } : State).shiftClock d := by
    simp only [State.setCrit, State.shiftClock, add_right_comm]
  rw [hlatch]
  rfl

theorem timerLatch_shiftClock : (s.shiftClock d).timerLatch = s.timerLatch.shiftClock d := by
  simp only [State.timerLatch, shiftClock_ite, State.shiftClock_elapsed]
  rfl

theorem timerTick_shiftClock : (s.shiftClock d).timerTick f = (s.timerTick f).shiftClock d := by
  simp only [State.timerTick, shiftClock_ite, timerStart_shiftClock, timerHigh_shiftClock, timerLow_shiftClock,
    timerLatch_shiftClock]
  rfl

/-- The State-Machine controller reads neither `TCNT` nor `TSTART`. -/
theorem smTick_shiftClock : (s.shiftClock d).smTick f = (s.smTick f).shiftClock d := by
  simp only [State.smTick, State.smStart, State.smPush, State.smDrain, State.smLatch, State.blocked, shiftClock_ite]
  rfl

theorem txTick_shiftClock : (s.shiftClock d).txTick f = (s.txTick f).shiftClock d := by
  simp only [State.txTick, State.shiftClock_cfg]
  split
  · exact timerTick_shiftClock s d f
  · exact smTick_shiftClock s d f

theorem ctlPart_shiftClock : (s.shiftClock d).ctlPart = s.ctlPart.shiftClock d := by
  simp only [State.ctlPart, shiftClock_ite, ← txTick_shiftClock]
  rfl

theorem endTick_shiftClock (t : State) :
    (s.shiftClock d).endTick (t.shiftClock d) = (s.endTick t).shiftClock d := by
  simp only [State.endTick, State.shiftClock, add_right_comm]
  rfl

/-- Of the engine's part, a tick takes registers that do not depend on the clock (R151). -/
theorem joint_shiftClock (c : State) :
    (s.shiftClock d).joint (c.shiftClock d) (s.shiftClock d).engineTick = (s.joint c s.engineTick).shiftClock d := by
  obtain ⟨hdout, hest, heshr, hebit, hesymt, hfifo⟩ :=
    engineTick_agree (s := s) (s' := s.shiftClock d) rfl rfl rfl rfl rfl rfl rfl rfl
  simp only [State.joint, hdout, hest, heshr, hebit, hesymt, hfifo]
  rfl

theorem tickState_shiftClock : (s.shiftClock d).tickState = s.tickState.shiftClock d := by
  cases hs : s.cfg.strategy with
  | timer =>
    have hs' : (s.shiftClock d).cfg.strategy = .timer := hs
    rw [tickState_timer hs, tickState_timer hs', ctlPart_shiftClock, endTick_shiftClock]
  | sm =>
    have hs' : (s.shiftClock d).cfg.strategy = .sm := hs
    rw [tickState_sm hs, tickState_sm hs', ctlPart_shiftClock, joint_shiftClock, endTick_shiftClock]

end ClockShift

/-! ### The obligations of spec/10_state.md -/

/-- Settles O33: every part of a tick commutes with the shift, and whether a step ticks does not depend on the clock. -/
theorem clockShift : Obligations.ClockShift := by
  intro s t d hr h
  rcases step_cases h with ⟨-, hr', -⟩ | ⟨hready, -, rfl⟩
  · simp [hr] at hr'
  · have hstep : step (s.shiftClock d) = .next (s.shiftClock d).tickState := step_tick hready hr
    rwa [tickState_shiftClock] at hstep

/-- Settles O18: a tick leaves the loop's registers as the controller's part does, and reset keeps the configuration. -/
theorem loopRegisterWriters : Obligations.LoopRegisterWriters := by
  intro s t h
  rcases step_cases h with ⟨-, hr, rfl⟩ | ⟨-, -, rfl⟩
  · exact ⟨State.resetTick_cfg s, fun hr' => absurd hr (by simp [hr'])⟩
  · refine ⟨tickState_cfg s, fun _ => ?_⟩
    rw [tickState_phase, tickState_phl, tickState_col, tickState_ftmr]
    exact ctlPart_loopRegisters s

/-- Settles O1: the reset state, register by register. -/
theorem resetState : Obligations.ResetState := fun cfg tcnt pins =>
  ⟨State.resetWith_phase cfg tcnt pins, State.resetWith_cst cfg tcnt pins, State.resetWith_txs cfg tcnt pins,
    State.resetWith_dout cfg tcnt pins, State.resetWith_crit cfg tcnt pins, State.resetWith_haltCause cfg tcnt pins,
    State.resetWith_fifo cfg tcnt pins, State.resetWith_est cfg tcnt pins, State.resetWith_tcnt cfg tcnt pins⟩

/-- Settles O3: each port is its register, and `halted` compares `CST` with `HALT`. -/
theorem portsShown : Obligations.PortsShown := fun s => ⟨rfl, rfl, rfl, rfl, rfl, s.halted_iff⟩

/-- Settles O32: a reset tick and every other tick count `TCNT` by one. -/
theorem tcntCounts : Obligations.TcntCounts := by
  intro s t h
  rcases step_cases h with ⟨-, -, rfl⟩ | ⟨-, -, rfl⟩
  · exact State.resetTick_tcnt s
  · exact tickState_tcnt s

/-- Settles O55: each invariant is a claim about registers that reset sets, in `INIT` and with the engine idle. -/
theorem invariantsAtReset : Obligations.InvariantsAtReset := fun cfg tcnt pins hwf =>
  ⟨codesLegal_resetWith cfg tcnt pins, causeMatches_resetWith cfg tcnt pins, queueBounded_resetWith cfg tcnt pins,
    lineTimer_resetWith cfg tcnt pins, lineSm_resetWith cfg tcnt pins, quietOutsideTx_resetWith cfg tcnt pins,
    countersInRange_resetWith cfg tcnt pins hwf, pixInFrame_resetWith cfg tcnt pins, pacedInTime_resetWith cfg tcnt pins⟩

end Sys2Proof.Machine

namespace Sys2Proof.Machine

/-! ### The queue over one tick of `SM` (spec/20_memory.md R74, R75) -/

/-- What the controller adds to the queue in a tick of `SM`: the pixel's word when it is in `S_PUSH` with room at the
start of the tick, else nothing. -/
def State.pushedWords (s : State) : List Word24 :=
  if s.cst = cstTx ∧ s.txs = txsSPush ∧ s.fifo.length < s.cfg.qdepth
  then [wordOf s.cfg.chorder s.col s.cfg.scale] else []

/-- The controller's part of a tick of `SM` puts its words at the queue's tail. -/
theorem ctlPart_fifo {s : State} (hs : s.cfg.strategy = .sm) : s.ctlPart.fifo = s.fifo ++ s.pushedWords := by
  by_cases hc : s.cst = cstTx
  · have htx : s.ctlPart = s.smTick s.frameFeed := by rw [ctlPart_tx hc, State.txTick, hs]
    simp [htx, smTick_fifo, State.pushedWords, hc]
  · obtain ⟨-, -, -, -, -, hout⟩ := ctlPart_frame s
    simp [(hout hc).2, State.pushedWords, hc]

/-- The queue after a tick of `SM`: what the engine left of it, followed by the controller's words. -/
theorem tickState_fifo {s : State} (hs : s.cfg.strategy = .sm) :
    s.tickState.fifo = s.engineTick.fifo ++ s.pushedWords := by
  rw [tickState_sm hs, State.endTick_fifo, State.joint_fifo, ctlPart_fifo hs, List.drop_left]

/-- The engine's part of a tick does not lengthen the queue. -/
theorem engineTick_fifo_length_le (s : State) : s.engineTick.fifo.length ≤ s.fifo.length := by
  rw [engineTick_fifo]
  split
  · simp
  · exact le_rfl

/-- The controller's words fit into the room the queue has at the start of the tick, a slot freed by the engine in the
same tick not counted. -/
theorem fifo_length_add_pushedWords_le {s : State} (h : s.fifo.length ≤ s.cfg.qdepth) :
    s.fifo.length + s.pushedWords.length ≤ s.cfg.qdepth := by
  unfold State.pushedWords
  split
  next hpush => exact hpush.2.2
  next => exact h

/-- A tick keeps the queue's bound. -/
theorem queueBounded_tickState {s : State} (h : s.QueueBounded) : s.tickState.QueueBounded := by
  intro hs
  rw [tickState_cfg] at hs ⊢
  calc s.tickState.fifo.length
      = s.engineTick.fifo.length + s.pushedWords.length := by rw [tickState_fifo hs, List.length_append]
    _ ≤ s.fifo.length + s.pushedWords.length := Nat.add_le_add_right (engineTick_fifo_length_le s) _
    _ ≤ s.cfg.qdepth := fifo_length_add_pushedWords_le (h hs)

/-! ### The obligations of spec/20_memory.md -/

/-- Settles O43: a step without reset is a tick, and both agents' parts of it test the state at its start. -/
theorem queueSameTick : Obligations.QueueSameTick := by
  intro s t hs hr h
  rcases step_cases h with ⟨-, hr', -⟩ | ⟨-, -, rfl⟩
  · simp [hr] at hr'
  · rw [tickState_fifo hs, engineTick_fifo, State.pushedWords]

/-- Settles O57: reset empties the queue, and a tick pushes into room left at its start only. -/
theorem queueKept : Obligations.QueueKept := by
  intro s t hq h
  rcases step_cases h with ⟨-, -, rfl⟩ | ⟨-, -, rfl⟩
  · exact fun _ => Nat.zero_le _
  · exact queueBounded_tickState hq

end Sys2Proof.Machine

namespace Sys2Proof.Machine

/-! ### Waveforms (spec/30_encoding.md R81, R82) -/

/-- A bit symbol has as many high ticks as its high time. -/
theorem count_true_bitWave (cfg : Config) (b : Bool) : (cfg.bitWave b).count true = cfg.hiTicks b := by
  simp [Config.bitWave, List.count_replicate]

/-- The two bit symbols differ in their high ticks. -/
theorem bitWave_true_ne_false {cfg : Config} (hwf : cfg.wf = true) : cfg.bitWave true ≠ cfg.bitWave false := by
  intro h
  have hcount : cfg.t1h = cfg.t0h := by
    simpa [count_true_bitWave, Config.hiTicks] using congrArg (List.count true) h
  have hlt : cfg.t0h < cfg.t1h := (Config.wf_bit hwf).2.1
  omega

/-- A low run is no bit symbol, since a bit symbol has a high tick. -/
theorem replicate_false_ne_bitWave {cfg : Config} (hwf : cfg.wf = true) (k : Nat) (b : Bool) :
    List.replicate k false ≠ cfg.bitWave b := by
  intro h
  have hcount : 0 = cfg.hiTicks b := by
    simpa [count_true_bitWave, List.count_replicate] using congrArg (List.count true) h
  have hpos : 1 ≤ cfg.hiTicks b := (Config.hiTicks_bounds hwf b).1
  omega

/-- A run of levels is a low run of at least `n` ticks exactly when no level is high and it has `n` ticks. -/
theorem all_low_iff (ticks : List Bool) (n : Nat) :
    (ticks.all (! ·) = true ∧ n ≤ ticks.length) ↔ ∃ k, n ≤ k ∧ ticks = List.replicate k false := by
  constructor
  · rintro ⟨hlow, hlen⟩
    exact ⟨ticks.length, hlen, List.eq_replicate_iff.mpr ⟨rfl, by simpa using hlow⟩⟩
  · rintro ⟨k, hk, rfl⟩
    simpa using hk

/-- Which run of levels is which symbol (R81, R82, R98). -/
theorem decodeSymbol_eq_ok_iff {cfg : Config} (hwf : cfg.wf = true) (ticks : List Bool) (i : Instr) :
    decodeSymbol cfg ticks = .ok i ↔
      (i = .bit0 ∧ ticks = cfg.bitWave false) ∨ (i = .bit1 ∧ ticks = cfg.bitWave true) ∨
      (i = .latch ∧ ∃ k, cfg.treset ≤ k ∧ ticks = List.replicate k false) := by
  rw [decodeSymbol, ← all_low_iff]
  constructor
  · intro h
    split_ifs at h with h0 h1 hlow <;> cases h
    · exact .inl ⟨rfl, h0⟩
    · exact .inr (.inl ⟨rfl, h1⟩)
    · exact .inr (.inr ⟨rfl, hlow⟩)
  · rintro (⟨rfl, rfl⟩ | ⟨rfl, rfl⟩ | ⟨rfl, hlow⟩)
    · exact if_pos rfl
    · rw [if_neg (bitWave_true_ne_false hwf), if_pos rfl]
    · obtain ⟨k, -, hk⟩ := (all_low_iff _ _).mp hlow
      have hne : ∀ b, ticks ≠ cfg.bitWave b := fun b => hk ▸ replicate_false_ne_bitWave hwf k b
      rw [if_neg (hne false), if_neg (hne true), if_pos hlow]

/-- A symbol other than the latch has one waveform. -/
theorem encode_of_decodeSymbol {cfg : Config} (hwf : cfg.wf = true) {ticks : List Bool} {i : Instr}
    (h : decodeSymbol cfg ticks = .ok i) (hlatch : i ≠ .latch) : encode cfg i = .symbol ticks := by
  rcases (decodeSymbol_eq_ok_iff hwf ticks i).mp h with ⟨rfl, rfl⟩ | ⟨rfl, rfl⟩ | ⟨hi, -⟩
  · rfl
  · rfl
  · exact absurd hi hlatch

/-! ### Operand bytes (log entry 14) -/

theorem colorsOfBytes_bytesOfColors (colors : List Color) : colorsOfBytes (bytesOfColors colors) = some colors := by
  induction colors with
  | nil => rfl
  | cons c cs ih => simp [bytesOfColors, colorsOfBytes, ih]

theorem bytesOfColors_of_colorsOfBytes {bytes : List Byte} {colors : List Color}
    (h : colorsOfBytes bytes = some colors) : bytesOfColors colors = bytes := by
  induction bytes using colorsOfBytes.induct generalizing colors with
  | case1 => cases h; rfl
  | case2 r g b rest ih =>
    obtain ⟨cs, hcs, rfl⟩ := Option.map_eq_some_iff.mp h
    simp [bytesOfColors, ih hcs]
  | case3 bytes hnil hcons => rw [colorsOfBytes.eq_3 bytes hnil hcons] at h; cases h

/-- Which operand bytes `TRANSMIT` takes: a scale and the bytes of 1 to 12 Colors (R130). -/
theorem decodeFunc_transmit_eq_ok_iff (sc : Byte) (bytes : List Byte) (i : Instr) :
    decodeFunc .transmit (sc :: bytes) = .ok i ↔
      ∃ colors, bytes = bytesOfColors colors ∧ (Instr.transmit colors sc).wf = true ∧ i = .transmit colors sc := by
  constructor
  · intro h
    cases hcs : colorsOfBytes bytes with
    | none => simp [decodeFunc, hcs] at h
    | some colors =>
      simp only [decodeFunc, hcs] at h
      split_ifs at h with hi
      cases h
      exact ⟨colors, (bytesOfColors_of_colorsOfBytes hcs).symm, hi, rfl⟩
  · rintro ⟨colors, rfl, hi, rfl⟩
    simp [decodeFunc, colorsOfBytes_bytesOfColors, hi]

/-! ### Codes of registers and parameters (R89 to R94) -/

section Codes

variable (cfg : Config) {i : Instr}

theorem encode_of_decodeCst {c : BitVec 3} (h : decodeCst c = .ok i) : encode cfg i = .cst c := by
  have hc : c ≠ cstReserved := by rintro rfl; cases h
  rcases cst_cases c hc with rfl | rfl | rfl | rfl | rfl | rfl | rfl <;> cases h <;> rfl

theorem encode_decodePolicy (c : BitVec 1) : encode cfg (decodePolicy c) = .policy c := by
  rcases BitVec.eq_zero_or_eq_one c with rfl | rfl <;> rfl

theorem encode_decodeTxsTimer (c : BitVec 2) : encode cfg (decodeTxsTimer c) = .txsTimer c := by
  rcases txs_cases c with rfl | rfl | rfl | rfl <;> rfl

theorem encode_decodeTxsSm (c : BitVec 2) : encode cfg (decodeTxsSm c) = .txsSm c := by
  rcases txs_cases c with rfl | rfl | rfl | rfl <;> rfl

theorem encode_of_decodeEst {c : BitVec 2} (h : decodeEst c = .ok i) : encode cfg i = .est c := by
  have hc : c ≠ estReserved := by rintro rfl; cases h
  rcases est_cases c hc with rfl | rfl | rfl <;> cases h <;> rfl

theorem encode_of_decodeFunc {f : FuncName} {bytes : List Byte} (h : decodeFunc f bytes = .ok i) :
    encode cfg i = .func f bytes := by
  cases f with
  | scale =>
    rcases bytes with _ | ⟨c, _ | ⟨sc, _ | ⟨_, _⟩⟩⟩ <;> cases h
    rfl
  | transmit =>
    cases bytes with
    | nil => cases h
    | cons sc bytes =>
      obtain ⟨colors, rfl, -, rfl⟩ := (decodeFunc_transmit_eq_ok_iff sc bytes i).mp h
      rfl

end Codes

/-! ### Pixel words (R86) -/

/-- Three bytes put together, the first in bits 23:16. -/
theorem toNat_append_bytes (x y z : Byte) :
    (x ++ y ++ z).toNat = x.toNat * 2 ^ 16 + y.toNat * 2 ^ 8 + z.toNat := by
  rw [BitVec.toNat_append, BitVec.toNat_append, ← Nat.shiftLeft_add_eq_or_of_lt z.isLt,
    ← Nat.shiftLeft_add_eq_or_of_lt y.isLt, Nat.shiftLeft_eq, Nat.shiftLeft_eq]
  ring

/-! ### Reserved codes (R95) -/

/-- An outcome that is the fault of the reserved code the state holds is each register's fault, the first of
`HALT_CAUSE`, `CST` and `EST` that holds one. -/
theorem faults_by_name {s : State} {o : Host.Outcome State Fault Refusal}
    (h : ∀ x, s.reservedCode = some x → o = .fault x) :
    (s.haltCause = causeReserved → o = .fault .reservedHaltCause) ∧
    (s.haltCause ≠ causeReserved → s.cst = cstReserved → o = .fault .reservedCst) ∧
    (s.haltCause ≠ causeReserved → s.cst ≠ cstReserved → s.cfg.strategy = .sm → s.est = estReserved →
      o = .fault .reservedEst) :=
  ⟨fun hh => h _ (if_pos hh),
    fun hh hc => h _ ((if_neg hh).trans (if_pos hc)),
    fun hh hc hs he => h _ ((if_neg hh).trans ((if_neg hc).trans (if_pos ⟨hs, he⟩)))⟩

/-- The operations that run ticks of their own outside `step` (log entry 13). -/
def RunsTicks (i : Instr) : Prop :=
  i = .bit0 ∨ i = .bit1 ∨ i = .latch ∨ (∃ w, i = .pixel w) ∨ ∃ colors sc, i = .transmit colors sc

/-- An operation that runs ticks of its own faults from a reserved code, as a step does. -/
theorem exec_of_reservedCode {s : State} {x : Fault} {i : Instr} (hwf : s.cfg.wf = true) (hr : s.pins.rst = false)
    (hi : i.wf = true) (hrun : RunsTicks i) (h : s.reservedCode = some x) : exec i s = .fault x := by
  have hfault : ∀ o, s.underWf (s.underCodes o) = .fault x := fun o => (underWf_ok hwf _).trans (underCodes_fault h o)
  rcases hrun with rfl | rfl | rfl | ⟨w, rfl⟩ | ⟨colors, sc, rfl⟩
  · exact hfault _
  · exact hfault _
  · exact hfault _
  · exact hfault _
  · have hx : exec (.transmit colors sc) s = execTransmit colors sc s := rfl
    simp [hx, execTransmit, hi, hr, hfault]

theorem frame_of_reservedCause {cfg : Config} {f : FrameState} (hwf : cfg.wf = true) (hc : f.cause = causeReserved)
    (e : FrameEvent) : FrameState.frame cfg e f = .fault .reservedHaltCause := by
  simp [FrameState.frame, hwf, hc]

/-- A reset tick and a tick from a state without a reserved code have a next state. -/
theorem safeStep_of_codesRun_or_reset {s : State} (hwf : s.cfg.wf = true) (h : s.CodesRun ∨ s.pins.rst = true) :
    SafeStep s := by
  cases hr : s.pins.rst with
  | true => exact ⟨_, step_reset hwf hr⟩
  | false => exact ⟨_, step_tick ⟨hwf, h.resolve_right (by simp [hr])⟩ hr⟩

/-! ### Where the controller goes, and the cause (spec/10_state.md R35, spec/60_exceptions.md R204) -/

/-- A tick in `TX` halts the block with `TX_FAIL`, or keeps the cause and stays in `TX` or goes to `ADV`. -/
theorem txTick_halts_or_keeps (s : State) (f : Feed) :
    ((s.txTick f).cst = cstHalt ∧ (s.txTick f).haltCause = causeTxFail) ∨
    ((s.txTick f).haltCause = s.haltCause ∧ ((s.txTick f).cst = s.cst ∨ (s.txTick f).cst = cstAdv)) := by
  unfold State.txTick
  split
  · rcases timerTick_cases s f with ⟨_, _, h⟩ | ⟨_, _, h⟩ | ⟨_, _, h⟩ | ⟨_, _, h⟩ | ⟨_, _, h⟩ | ⟨_, _, _, h⟩ |
      ⟨_, _, _, _, h⟩ | ⟨_, _, _, _, h⟩ | ⟨_, _, h⟩ | ⟨_, _, h⟩ <;> simp [h]
  · have hb : (s.blocked.cst = cstHalt ∧ s.blocked.haltCause = causeTxFail) ∨
        (s.blocked.haltCause = s.haltCause ∧ s.blocked.cst = s.cst) := by
      rcases blocked_cases s with ⟨_, h⟩ | ⟨_, h⟩ <;> simp [h]
    rcases smTick_cases s f with ⟨_, _, h⟩ | ⟨_, _, h⟩ | ⟨_, _, _, h⟩ | ⟨_, _, _, h⟩ | ⟨_, _, h⟩ | ⟨_, _, _, h⟩ |
      ⟨_, _, _, h⟩ | ⟨_, _, _, h⟩ | ⟨_, _, h⟩ | ⟨_, _, h⟩ <;> simp [h] <;>
      rcases hb with ⟨hcst, hcause⟩ | ⟨hcause, hcst⟩ <;> simp [hcst, hcause]

/-- The controller's part of a tick halts the block and records a cause, or keeps the cause and neither enters nor
leaves `HALT`; it never goes to the reserved code. -/
theorem ctlPart_halts_or_keeps {s : State} (hc : s.cst ≠ cstReserved) :
    (s.ctlPart.cst = cstHalt ∧ (s.ctlPart.haltCause = causeInitFail ∨ s.ctlPart.haltCause = causeTxFail)) ∨
    (s.ctlPart.haltCause = s.haltCause ∧ s.ctlPart.cst ≠ cstReserved ∧ (s.ctlPart.cst = cstHalt ↔ s.cst = cstHalt)) := by
  rcases ctlPart_cases s with ⟨h0, -, h⟩ | ⟨h0, -, h⟩ | ⟨h0, h⟩ | ⟨h0, h⟩ | ⟨h0, h⟩ | ⟨h0, h⟩ | ⟨h0, -, h⟩ |
    ⟨h0, -, h⟩ | ⟨h0 | h0, h⟩ <;> rw [h]
  case inr.inr.inr.inr.inl =>
    rcases txTick_halts_or_keeps s s.frameFeed with ⟨hcst, hcause⟩ | ⟨hcause, hcst | hcst⟩ <;> simp [hcst, hcause, h0]
  all_goals simp [h0] at hc ⊢

theorem tickState_est_ne_reserved {s : State} (h : s.est ≠ estReserved) : s.tickState.est ≠ estReserved := by
  cases hs : s.cfg.strategy with
  | timer => rwa [tickState_timer hs, State.endTick_est, (ctlPart_frame s).1]
  | sm => rw [tickState_sm hs]; exact engineTick_est h

theorem codesLegal_tickState {s : State} (h : s.CodesLegal) : s.tickState.CodesLegal := by
  obtain ⟨hcst, hest, hcause⟩ := h
  rw [State.CodesLegal, tickState_cst, tickState_haltCause]
  rcases ctlPart_halts_or_keeps hcst with ⟨hhalt, hfail⟩ | ⟨hkeep, hlegal, -⟩
  · refine ⟨by simp [hhalt], tickState_est_ne_reserved hest, ?_⟩
    rcases hfail with hfail | hfail <;> simp [hfail]
  · exact ⟨hlegal, tickState_est_ne_reserved hest, by rwa [hkeep]⟩

theorem causeMatches_tickState {s : State} (hcst : s.cst ≠ cstReserved) (h : s.CauseMatches) :
    s.tickState.CauseMatches := by
  rw [State.CauseMatches, tickState_cst, tickState_haltCause]
  rcases ctlPart_halts_or_keeps hcst with ⟨hhalt, hfail⟩ | ⟨hkeep, -, hiff⟩
  · exact iff_of_true hhalt hfail
  · rw [hkeep, hiff]
    exact h

/-! ### The obligations of spec/30_encoding.md -/

/-- Settles O8: the codes are read back by the tables, the symbols by their waveforms, the Colors by their bytes. -/
theorem decodeEncode : Obligations.DecodeEncode := by
  intro cfg i hwf hi
  cases i with
  | bit0 => exact (decodeSymbol_eq_ok_iff hwf _ _).mpr (.inl ⟨rfl, rfl⟩)
  | bit1 => exact (decodeSymbol_eq_ok_iff hwf _ _).mpr (.inr (.inl ⟨rfl, rfl⟩))
  | latch => exact (decodeSymbol_eq_ok_iff hwf _ _).mpr (.inr (.inr ⟨rfl, cfg.treset, le_rfl, rfl⟩))
  | transmit colors sc => exact (decodeFunc_transmit_eq_ok_iff sc _ _).mpr ⟨colors, rfl, hi, rfl⟩
  | _ => rfl

/-- Settles O56: reset sets legal codes and no cause; a tick halts with a cause or keeps both. -/
theorem codesAndCauseKept : Obligations.CodesAndCauseKept := by
  intro s t h
  rcases step_cases h with ⟨-, -, rfl⟩ | ⟨⟨-, hcst, -, -⟩, -, rfl⟩
  · exact ⟨fun _ => codesLegal_resetWith s.cfg (s.tcnt + 1) (s.pinsAt 1),
      fun _ => causeMatches_resetWith s.cfg (s.tcnt + 1) (s.pinsAt 1)⟩
  · exact ⟨codesLegal_tickState, causeMatches_tickState hcst⟩

/-- Settles O9: format by format, and the low runs that are latches by the symbol decoder's cases. -/
theorem encodeDecode : Obligations.EncodeDecode := by
  intro cfg hwf
  refine ⟨fun c i h hlatch => ?_, fun ticks => ?_⟩
  · cases c with
    | cst c => exact encode_of_decodeCst cfg h
    | policy c => cases h; exact encode_decodePolicy cfg c
    | txsTimer c => cases h; exact encode_decodeTxsTimer cfg c
    | txsSm c => cases h; exact encode_decodeTxsSm cfg c
    | est c => exact encode_of_decodeEst cfg h
    | symbol ticks => exact encode_of_decodeSymbol hwf h hlatch
    | word w => cases h; rfl
    | func f bytes => exact encode_of_decodeFunc cfg h
  · exact (decodeSymbol_eq_ok_iff hwf ticks .latch).trans (by simp)

/-- Settles O27: in each order the word is the three scaled channels put together. -/
theorem wordAssembly : Obligations.WordAssembly := by
  intro o c sc
  cases o <;> exact ⟨_, _, _, rfl, toNat_append_bytes _ _ _⟩

/-- Settles O5: steps and the operations that run ticks fault with the code the state holds; all else steps. -/
theorem reservedCodesFault : Obligations.ReservedCodesFault :=
  ⟨fun _ hwf hr => faults_by_name fun _ => step_of_reservedCode hwf hr,
    fun _ _ hwf hr hi hrun => faults_by_name fun _ => exec_of_reservedCode hwf hr hi hrun,
    fun _ e _ hwf hc => frame_of_reservedCause hwf hc e,
    rfl, rfl,
    fun _ => safeStep_of_codesRun_or_reset⟩

/-- Settles O7: each encoding is a closed code. -/
theorem decodingSanity : Obligations.DecodingSanity := by
  unfold Obligations.DecodingSanity
  decide

end Sys2Proof.Machine

namespace Sys2Proof.Machine

/-! ### The colour wheel (spec/40_color_sequencer.md R112, R113)

Each sector is closed at both ends: neighbouring sectors agree at phases 85 and 170, so a phase and its successor always
lie in a common one. -/

/-- The sector from red to green. -/
theorem wheel_redGreen {φ : Byte} (h : φ.toNat ≤ 85) :
    (wheel φ).r.toNat = 255 - 3 * φ.toNat ∧ (wheel φ).g.toNat = 3 * φ.toNat ∧ (wheel φ).b.toNat = 0 := by
  have h85 : ¬(255#8 - φ).toNat < 85 := by bv_omega
  have h170 : ¬(255#8 - φ).toNat < 170 := by bv_omega
  rw [wheel, if_neg h85, if_neg h170]
  refine ⟨?_, ?_, rfl⟩ <;> bv_omega

/-- The sector from green to blue. -/
theorem wheel_greenBlue {φ : Byte} (h : 85 ≤ φ.toNat) (h' : φ.toNat ≤ 170) :
    (wheel φ).r.toNat = 0 ∧ (wheel φ).g.toNat = 510 - 3 * φ.toNat ∧ (wheel φ).b.toNat = 3 * φ.toNat - 255 := by
  rcases h.eq_or_lt with h | h
  · obtain ⟨hr, hg, hb⟩ := wheel_redGreen h.ge
    omega
  · have h85 : ¬(255#8 - φ).toNat < 85 := by bv_omega
    have h170 : (255#8 - φ).toNat < 170 := by bv_omega
    rw [wheel, if_neg h85, if_pos h170]
    refine ⟨rfl, ?_, ?_⟩ <;> bv_omega

/-- The sector from blue back to red. -/
theorem wheel_blueRed {φ : Byte} (h : 170 ≤ φ.toNat) :
    (wheel φ).r.toNat = 3 * φ.toNat - 510 ∧ (wheel φ).g.toNat = 0 ∧ (wheel φ).b.toNat = 765 - 3 * φ.toNat := by
  rcases h.eq_or_lt with h | h
  · obtain ⟨hr, hg, hb⟩ := wheel_greenBlue (φ := φ) (by omega) h.ge
    omega
  · have h85 : (255#8 - φ).toNat < 85 := by bv_omega
    rw [wheel, if_pos h85]
    refine ⟨?_, rfl, ?_⟩ <;> bv_omega

/-- Every phase with its colour, each boundary phase in the upper of its two sectors. -/
theorem wheel_sectors (φ : Byte) :
    (φ.toNat < 85 ∧
      (wheel φ).r.toNat = 255 - 3 * φ.toNat ∧ (wheel φ).g.toNat = 3 * φ.toNat ∧ (wheel φ).b.toNat = 0) ∨
    ((85 ≤ φ.toNat ∧ φ.toNat < 170) ∧
      (wheel φ).r.toNat = 0 ∧ (wheel φ).g.toNat = 510 - 3 * φ.toNat ∧ (wheel φ).b.toNat = 3 * φ.toNat - 255) ∨
    (170 ≤ φ.toNat ∧
      (wheel φ).r.toNat = 3 * φ.toNat - 510 ∧ (wheel φ).g.toNat = 0 ∧ (wheel φ).b.toNat = 765 - 3 * φ.toNat) := by
  rcases lt_or_ge φ.toNat 85 with h85 | h85
  · exact .inl ⟨h85, wheel_redGreen h85.le⟩
  rcases lt_or_ge φ.toNat 170 with h170 | h170
  · exact .inr (.inl ⟨⟨h85, h170⟩, wheel_greenBlue h85 h170.le⟩)
  · exact .inr (.inr ⟨h170, wheel_blueRed h170⟩)

/-- The channels add up to 255. -/
theorem wheel_channels_sum (φ : Byte) : (wheel φ).r.toNat + (wheel φ).g.toNat + (wheel φ).b.toNat = 255 := by
  rcases wheel_sectors φ with ⟨h, hr, hg, hb⟩ | ⟨h, hr, hg, hb⟩ | ⟨h, hr, hg, hb⟩ <;> omega

/-- A shared colour has a shared phase or stands at the two ends of the range: phases of one sector differ in a channel
that is strictly monotone there, and colours of two sectors differ but for pure red, at 0 and at 255. -/
theorem phase_eq_or_ends_of_wheel_eq {φ ψ : Byte} (h : wheel φ = wheel ψ) :
    φ = ψ ∨ (φ = 0#8 ∧ ψ = 255#8) ∨ (φ = 255#8 ∧ ψ = 0#8) := by
  have hψ := wheel_sectors ψ
  rw [← h] at hψ
  simp only [← BitVec.toNat_inj, BitVec.toNat_ofNat]
  rcases wheel_sectors φ with ⟨hφ, hr, hg, hb⟩ | ⟨hφ, hr, hg, hb⟩ | ⟨hφ, hr, hg, hb⟩ <;>
    rcases hψ with ⟨hψ, hr', hg', hb'⟩ | ⟨hψ, hr', hg', hb'⟩ | ⟨hψ, hr', hg', hb'⟩ <;> omega

/-! ### Brightness scaling (spec/40_color_sequencer.md R115, R116) -/

/-- The quotient is at most the channel, for the scale is at most 255. -/
theorem scale8_quotient_le (c s : Byte) : c.toNat * s.toNat / 255 ≤ c.toNat :=
  Nat.div_le_of_le_mul (by rw [Nat.mul_comm]; exact Nat.mul_le_mul_right _ (Nat.le_of_lt_succ s.isLt))

/-- The quotient fits into a byte: `scale8` drops no bit of it. -/
@[simp] theorem toNat_scale8 (c s : Byte) : (scale8 c s).toNat = c.toNat * s.toNat / 255 := by
  rw [scale8, BitVec.toNat_ofNat, Nat.mod_eq_of_lt ((scale8_quotient_le c s).trans_lt c.isLt)]

theorem scale8_comm (c s : Byte) : scale8 c s = scale8 s c := by
  rw [scale8, scale8, Nat.mul_comm]

theorem scale8_le_left (c s : Byte) : (scale8 c s).toNat ≤ c.toNat :=
  (toNat_scale8 c s).trans_le (scale8_quotient_le c s)

theorem scale8_255 (c : Byte) : scale8 c 255#8 = c :=
  BitVec.eq_of_toNat_eq (by simp)

theorem scale8_zero (c : Byte) : scale8 c 0#8 = 0#8 :=
  BitVec.eq_of_toNat_eq (by simp)

theorem scale8_mono_left {c c' : Byte} (s : Byte) (h : c.toNat ≤ c'.toNat) :
    (scale8 c s).toNat ≤ (scale8 c' s).toNat := by
  rw [toNat_scale8, toNat_scale8]
  exact Nat.div_le_div_right (Nat.mul_le_mul_right _ h)

/-! ### The obligations of spec/40_color_sequencer.md -/

/-- Settles O23: a phase and its successor lie in one closed sector, where one channel is 0 and the others move by 3. -/
theorem wheelContinuous : Obligations.WheelContinuous := by
  refine ⟨fun φ hφ => ?_, rfl, fun _ _ => phase_eq_or_ends_of_wheel_eq⟩
  have hsucc : (φ + 1).toNat = φ.toNat + 1 := by bv_omega
  rcases wheel_sectors φ with ⟨h, hr, hg, hb⟩ | ⟨h, hr, hg, hb⟩ | ⟨h, hr, hg, hb⟩
  · obtain ⟨hr', hg', hb'⟩ := wheel_redGreen (φ := φ + 1) (by omega)
    exact ⟨3, 3, 0, by omega, by omega, by omega, by decide⟩
  · obtain ⟨hr', hg', hb'⟩ := wheel_greenBlue (φ := φ + 1) (by omega) (by omega)
    exact ⟨0, 3, 3, by omega, by omega, by omega, by decide⟩
  · obtain ⟨hr', hg', hb'⟩ := wheel_blueRed (φ := φ + 1) (by omega)
    exact ⟨3, 0, 3, by omega, by omega, by omega, by decide⟩

/-- Settles O26: bounds and monotonicity in the scale are those in the channel, `scale8` being symmetric. -/
theorem scaleLaws : Obligations.ScaleLaws := by
  intro c c' sc sc'
  refine ⟨le_min (scale8_le_left c sc) ?_, scale8_255 c, scale8_zero c, scale8_mono_left sc, fun h => ?_⟩
  · rw [scale8_comm]
    exact scale8_le_left sc c
  · rw [scale8_comm c, scale8_comm c]
    exact scale8_mono_left c h

/-- Settles O22: the value is `wheel` of the latched phase, in closed form by sectors. -/
theorem wheelResult : Obligations.WheelResult := fun s hwf =>
  ⟨wheel s.phl, underWf_ok hwf _, wheel_redGreen, fun h => wheel_greenBlue (by omega), fun h => wheel_blueRed (by omega),
    wheel_channels_sum s.phl⟩

/-- Settles O24: under a well-formed configuration `HSV` returns the open conversion. -/
theorem hsvResult : Obligations.HsvResult := fun _ hwf => underWf_ok hwf _

/-- Settles O25: under a well-formed configuration `SCALE` returns `scale8`, which is the quotient. -/
theorem scaleResult : Obligations.ScaleResult := fun c sc _ hwf =>
  ⟨scale8 c sc, underWf_ok hwf _, toNat_scale8 c sc⟩

end Sys2Proof.Machine

namespace Sys2Proof.Machine

/-! ### What each tick-level operation writes (spec/41_bit_serializer.md R138 to R150), an equation per case -/

section Operations

variable {s : State} {f : Feed}

theorem timerStart_available (hp : s.pins.chanAvail = true) :
    s.timerStart f = { s with
      pix := 0, shr := f.wordAt 0, bitcnt := 24, dout := true, crit := true, tstart := s.tcnt + 1, txs := txsTHigh } :=
  if_pos hp

theorem timerStart_unavailable (hp : s.pins.chanAvail = false) : s.timerStart f = s.raiseHalt causeTxFail :=
  if_neg (by simp [hp])

theorem timerHigh_last (h : s.hiTimer ≤ s.elapsed.toNat + 1) :
    s.timerHigh = { s with dout := false, txs := txsTLow } :=
  if_pos h

theorem timerHigh_before (h : s.elapsed.toNat + 1 < s.hiTimer) : s.timerHigh = s := if_neg (Nat.not_le.mpr h)

theorem timerLow_before (h : s.elapsed.toNat + 1 < s.cfg.total) : s.timerLow f = s := if_neg (Nat.not_le.mpr h)

theorem timerLow_nextBit (h : s.cfg.total ≤ s.elapsed.toNat + 1) (hb : 1 < s.bitcnt.toNat) :
    s.timerLow f = { s with
      shr := s.shr <<< 1, bitcnt := s.bitcnt - 1, dout := true, tstart := s.tcnt + 1, txs := txsTHigh } :=
  (if_pos h).trans (if_pos hb)

theorem timerLow_nextPixel (h : s.cfg.total ≤ s.elapsed.toNat + 1) (hb : s.bitcnt.toNat ≤ 1)
    (hp : s.pix.toNat + 1 < f.n) :
    s.timerLow f = { s with
      pix := s.pix + 1, shr := f.wordAt (s.pix.toNat + 1), bitcnt := 24, dout := true, tstart := s.tcnt + 1
      txs := txsTHigh } :=
  (if_pos h).trans ((if_neg (Nat.not_lt.mpr hb)).trans (if_pos hp))

theorem timerLow_latch (h : s.cfg.total ≤ s.elapsed.toNat + 1) (hb : s.bitcnt.toNat ≤ 1) (hp : f.n ≤ s.pix.toNat + 1) :
    s.timerLow f = { s with crit := false, tstart := s.tcnt + 1, txs := txsTLatch } :=
  (if_pos h).trans ((if_neg (Nat.not_lt.mpr hb)).trans (if_neg (Nat.not_lt.mpr hp)))

theorem timerLatch_last (h : s.cfg.treset ≤ s.elapsed.toNat + 1) : s.timerLatch = s.transmitDone := if_pos h

theorem timerLatch_before (h : s.elapsed.toNat + 1 < s.cfg.treset) : s.timerLatch = s := if_neg (Nat.not_le.mpr h)

theorem smStart_available (hp : s.pins.chanAvail = true) : s.smStart = { s with pix := 0, blk := 0, txs := txsSPush } :=
  if_pos hp

theorem smStart_unavailable (hp : s.pins.chanAvail = false) : s.smStart = s.raiseHalt causeTxFail :=
  if_neg (by simp [hp])

theorem blocked_fails (h : s.cfg.blockBound ≤ s.blk.toNat) : s.blocked = s.raiseHalt causeTxFail := if_pos h

theorem blocked_counts (h : s.blk.toNat < s.cfg.blockBound) : s.blocked = { s with blk := s.blk + 1 } :=
  if_neg (Nat.not_le.mpr h)

theorem smPush_nextPixel (hq : s.fifo.length < s.cfg.qdepth) (hp : s.pix.toNat + 1 < f.n) :
    s.smPush f = { s with fifo := s.fifo ++ [f.wordAt s.pix.toNat], blk := 0, pix := s.pix + 1 } :=
  (if_pos hq).trans (if_pos hp)

theorem smPush_drain (hq : s.fifo.length < s.cfg.qdepth) (hp : f.n ≤ s.pix.toNat + 1) :
    s.smPush f = { s with fifo := s.fifo ++ [f.wordAt s.pix.toNat], blk := 0, txs := txsSDrain } :=
  (if_pos hq).trans (if_neg (Nat.not_lt.mpr hp))

theorem smPush_full (hq : s.cfg.qdepth ≤ s.fifo.length) : s.smPush f = s.blocked := if_neg (Nat.not_lt.mpr hq)

theorem smDrain_done (h : s.EngineQuiet) : s.smDrain = { s with lcnt := 0, txs := txsSLatch } := if_pos h

theorem smDrain_available (h : ¬ s.EngineQuiet) (hp : s.pins.chanAvail = true) : s.smDrain = { s with blk := 0 } :=
  (if_neg h).trans (if_pos hp)

theorem smDrain_unavailable (h : ¬ s.EngineQuiet) (hp : s.pins.chanAvail = false) : s.smDrain = s.blocked :=
  (if_neg h).trans (if_neg (by simp [hp]))

theorem smLatch_last (h : s.cfg.treset ≤ s.lcnt.toNat + 1) : s.smLatch = s.transmitDone := if_pos h

theorem smLatch_before (h : s.lcnt.toNat + 1 < s.cfg.treset) : s.smLatch = { s with lcnt := s.lcnt + 1 } :=
  if_neg (Nat.not_le.mpr h)

theorem enabled_available (hp : s.pins.chanAvail = true) (op : State) : s.enabled op = op := if_pos hp

theorem enabled_unavailable (hp : s.pins.chanAvail = false) (op : State) : s.enabled op = s := if_neg (by simp [hp])

theorem engineIdle_empty (hq : s.fifo = []) : s.engineIdle = s := by rw [State.engineIdle, hq]

theorem engineIdle_pop {w : Word24} {rest : List Word24} (hq : s.fifo = w :: rest) :
    s.engineIdle = s.engineLoad w rest := by
  rw [State.engineIdle, hq]

theorem engineHigh_last (h : s.hiEngine ≤ s.esymt.toNat + 1) :
    s.engineHigh = { s with dout := false, est := estLow, esymt := s.esymt + 1 } :=
  if_pos h

theorem engineHigh_before (h : s.esymt.toNat + 1 < s.hiEngine) : s.engineHigh = { s with esymt := s.esymt + 1 } :=
  if_neg (Nat.not_le.mpr h)

theorem engineLow_before (h : s.esymt.toNat + 1 < s.cfg.total) : s.engineLow = { s with esymt := s.esymt + 1 } :=
  if_neg (Nat.not_le.mpr h)

theorem engineLow_nextBit (h : s.cfg.total ≤ s.esymt.toNat + 1) (hb : 1 < s.ebit.toNat) :
    s.engineLow = { s with
      eshr := s.eshr <<< 1, ebit := s.ebit - 1, esymt := 0, dout := true, est := estHigh } :=
  (if_pos h).trans (if_pos hb)

theorem engineLow_idle (h : s.cfg.total ≤ s.esymt.toNat + 1) (hb : s.ebit.toNat ≤ 1) (hq : s.fifo = []) :
    s.engineLow = { s with est := estIdle } := by
  rw [State.engineLow, if_pos h, if_neg (Nat.not_lt.mpr hb), hq]

theorem engineLow_pop (h : s.cfg.total ≤ s.esymt.toNat + 1) (hb : s.ebit.toNat ≤ 1) {w : Word24} {rest : List Word24}
    (hq : s.fifo = w :: rest) : s.engineLow = s.engineLoad w rest := by
  rw [State.engineLow, if_pos h, if_neg (Nat.not_lt.mpr hb), hq]

/-- Under a well-formed configuration an operation's next state is what the operation makes of the state. -/
theorem underWf_next {op t : State} (hwf : s.cfg.wf = true) (h : op = t) : s.underWf (.next op) = .next t := by
  rw [underWf_ok hwf, h]

end Operations

/-! The obligations of the one-tick operations: each operation's cases, on the frame's sequence. -/

/-- Settles O28: the two cases of `timerStart`. -/
theorem tStartResult : Obligations.TStartResult := fun _ hwf =>
  ⟨fun hp => underWf_next hwf (timerStart_available hp), fun hp => underWf_next hwf (timerStart_unavailable hp)⟩

/-- Settles O29: the two cases of `timerHigh`. -/
theorem tHighResult : Obligations.THighResult := fun _ hwf =>
  ⟨fun h => underWf_next hwf (timerHigh_last h), fun h => underWf_next hwf (timerHigh_before h)⟩

/-- Settles O30: the four cases of `timerLow`, on the frame's sequence. -/
theorem tLowResult : Obligations.TLowResult := fun _ hwf =>
  ⟨fun h => underWf_next hwf (timerLow_before h), fun h =>
    ⟨fun hb => underWf_next hwf (timerLow_nextBit h hb),
      fun hb hp => underWf_next hwf (timerLow_nextPixel h hb hp),
      fun hb hp => underWf_next hwf (timerLow_latch h hb hp)⟩⟩

/-- Settles O31: the two cases of `timerLatch`. -/
theorem tLatchResult : Obligations.TLatchResult := fun _ hwf =>
  ⟨fun h => underWf_next hwf (timerLatch_last h), fun h => underWf_next hwf (timerLatch_before h)⟩

/-- Settles O36: the two cases of `smStart`. -/
theorem sStartResult : Obligations.SStartResult := fun _ hwf =>
  ⟨fun hp => underWf_next hwf (smStart_available hp), fun hp => underWf_next hwf (smStart_unavailable hp)⟩

/-- Settles O37: the two cases of `smPush` with room, and of the blocked tick with a full queue. -/
theorem sPushResult : Obligations.SPushResult := fun _ hwf =>
  ⟨fun hq =>
    ⟨fun hp => underWf_next hwf (smPush_nextPixel hq hp), fun hp => underWf_next hwf (smPush_drain hq hp)⟩,
    fun hq =>
      ⟨fun hb => underWf_next hwf ((smPush_full hq).trans (blocked_fails hb)),
        fun hb => underWf_next hwf ((smPush_full hq).trans (blocked_counts hb))⟩⟩

/-- Settles O38: the three cases of `smDrain`, the blocked tick in its two. -/
theorem sDrainResult : Obligations.SDrainResult := fun _ hwf =>
  ⟨fun hq => underWf_next hwf (smDrain_done hq), fun hq =>
    ⟨fun hp => underWf_next hwf (smDrain_available hq hp),
      fun hp hb => underWf_next hwf ((smDrain_unavailable hq hp).trans (blocked_fails hb)),
      fun hp hb => underWf_next hwf ((smDrain_unavailable hq hp).trans (blocked_counts hb))⟩⟩

/-- Settles O39: the two cases of `smLatch`. -/
theorem sLatchResult : Obligations.SLatchResult := fun _ hwf =>
  ⟨fun h => underWf_next hwf (smLatch_last h), fun h => underWf_next hwf (smLatch_before h)⟩

/-- Settles O40: the two cases of `engineIdle` of an enabled engine. -/
theorem eIdleResult : Obligations.EIdleResult := fun _ hwf =>
  ⟨fun hp => underWf_next hwf (enabled_unavailable hp _), fun hp =>
    ⟨fun hq => underWf_next hwf ((enabled_available hp _).trans (engineIdle_empty hq)),
      fun _ _ hq => underWf_next hwf ((enabled_available hp _).trans (engineIdle_pop hq))⟩⟩

/-- Settles O41: the two cases of `engineHigh` of an enabled engine. -/
theorem eHighResult : Obligations.EHighResult := fun _ hwf =>
  ⟨fun hp => underWf_next hwf (enabled_unavailable hp _), fun hp =>
    ⟨fun h => underWf_next hwf ((enabled_available hp _).trans (engineHigh_last h)),
      fun h => underWf_next hwf ((enabled_available hp _).trans (engineHigh_before h))⟩⟩

/-- Settles O42: the four cases of `engineLow` of an enabled engine. -/
theorem eLowResult : Obligations.ELowResult := fun _ hwf =>
  ⟨fun hp => underWf_next hwf (enabled_unavailable hp _), fun hp =>
    ⟨fun h => underWf_next hwf ((enabled_available hp _).trans (engineLow_before h)), fun h =>
      ⟨fun hb => underWf_next hwf ((enabled_available hp _).trans (engineLow_nextBit h hb)),
        fun hb hq => underWf_next hwf ((enabled_available hp _).trans (engineLow_idle h hb hq)),
        fun _ _ hb hq => underWf_next hwf ((enabled_available hp _).trans (engineLow_pop h hb hq))⟩⟩⟩

/-! ### The line and `CRIT` over one tick (spec/41_bit_serializer.md R143, spec/10_state.md R33, R34) -/

/-- A Timer-Paced tick in `TX` keeps the line high exactly in `T_HIGH` and `CRIT` exactly in `T_HIGH` and `T_LOW`. -/
theorem lineTimer_timerTick {s : State} (f : Feed) (hs : s.cfg.strategy = .timer) (hc : s.cst = cstTx)
    (h : s.LineTimer) : (s.timerTick f).LineTimer := by
  obtain ⟨hdout, hcrit⟩ := h hs
  rcases timerTick_cases s f with ⟨hx, -, e⟩ | ⟨hx, -, e⟩ | ⟨hx, -, e⟩ | ⟨hx, -, e⟩ | ⟨hx, -, e⟩ | ⟨hx, -, -, e⟩ |
    ⟨hx, -, -, -, e⟩ | ⟨hx, -, -, -, e⟩ | ⟨hx, -, e⟩ | ⟨hx, -, e⟩ <;> rw [e] <;>
    simp_all [State.LineTimer]

/-- In `TIMER` the controller's part of a tick keeps the line: outside `TX` it writes neither the line nor `CRIT`, and
it enters `TX` at the transmit's start. -/
theorem lineTimer_ctlPart {s : State} (h : s.LineTimer) : s.ctlPart.LineTimer := by
  cases hs : s.cfg.strategy with
  | sm => exact fun hs' => by simp [ctlPart_cfg, hs] at hs'
  | timer =>
    rcases ctlPart_cases s with ⟨hc, -, e⟩ | ⟨hc, -, e⟩ | ⟨hc, e⟩ | ⟨hc, e⟩ | ⟨hc, e⟩ | ⟨hc, e⟩ | ⟨hc, -, e⟩ |
      ⟨hc, -, e⟩ | ⟨-, e⟩ <;> rw [e]
    case inr.inr.inr.inr.inl =>
      rw [State.txTick, hs]
      exact lineTimer_timerTick _ hs hc h
    case inr.inr.inr.inr.inr.inr.inr.inr => exact h
    all_goals simpa [State.LineTimer, hs, hc] using h

/-- The engine's part of a tick keeps the line high exactly in `E_HIGH`. -/
theorem engineTick_dout_iff {s : State} (h : s.dout = true ↔ s.est = estHigh) :
    s.engineTick.dout = true ↔ s.engineTick.est = estHigh := by
  rcases engineTick_cases s with ⟨-, e⟩ | ⟨-, -, e⟩ | ⟨-, -, w, rest, -, e⟩ | ⟨-, -, -, e⟩ | ⟨-, -, -, e⟩ |
    ⟨-, -, -, e⟩ | ⟨-, -, -, -, e⟩ | ⟨-, he, -, -, -, e⟩ | ⟨-, -, -, -, w, rest, -, e⟩ | ⟨-, e⟩ <;> simp_all

/-- In `SM` the controller's part of a tick does not write `CRIT`. -/
theorem ctlPart_crit_sm {s : State} (hs : s.cfg.strategy = .sm) : s.ctlPart.crit = s.crit := by
  have hblocked : s.blocked.crit = s.crit := by
    rcases blocked_cases s with ⟨-, e⟩ | ⟨-, e⟩ <;> simp [e]
  have hsm : (s.smTick s.frameFeed).crit = s.crit := by
    rcases smTick_cases s s.frameFeed with ⟨-, -, e⟩ | ⟨-, -, e⟩ | ⟨-, -, -, e⟩ | ⟨-, -, -, e⟩ | ⟨-, -, e⟩ |
      ⟨-, -, -, e⟩ | ⟨-, -, -, e⟩ | ⟨-, -, -, e⟩ | ⟨-, -, e⟩ | ⟨-, -, e⟩ <;> simp [e, hblocked]
  rcases ctlPart_cases s with ⟨-, -, e⟩ | ⟨-, -, e⟩ | ⟨-, e⟩ | ⟨-, e⟩ | ⟨-, e⟩ | ⟨-, e⟩ | ⟨-, -, e⟩ | ⟨-, -, e⟩ |
    ⟨-, e⟩ <;> rw [e]
  case inr.inr.inr.inr.inl => rwa [State.txTick, hs]
  all_goals rfl

theorem lineTimer_tickState {s : State} (h : s.LineTimer) : s.tickState.LineTimer := by
  intro hs
  rw [tickState_cfg] at hs
  rw [tickState_timer hs]
  exact lineTimer_ctlPart h (by rwa [ctlPart_cfg])

theorem lineSm_tickState {s : State} (h : s.LineSm) : s.tickState.LineSm := by
  intro hs
  rw [tickState_cfg] at hs
  obtain ⟨hline, hcrit⟩ := h hs
  rw [tickState_crit, ctlPart_crit_sm hs, tickState_sm hs]
  exact ⟨engineTick_dout_iff hline, hcrit⟩

/-- Settles O58: a reset tick is in `INIT` with the engine idle, and each strategy's owner of the line keeps it. -/
theorem lineKept : Obligations.LineKept := by
  intro s t ⟨htimer, hsm⟩ h
  rcases step_cases h with ⟨-, -, rfl⟩ | ⟨-, -, rfl⟩
  · exact ⟨lineTimer_resetWith s.cfg (s.tcnt + 1) (s.pinsAt 1), lineSm_resetWith s.cfg (s.tcnt + 1) (s.pinsAt 1)⟩
  · exact ⟨lineTimer_tickState htimer, lineSm_tickState hsm⟩

/-! ### The two agents of a tick in `SM` (spec/41_bit_serializer.md R151) -/

/-- Settles O44: in `SM` a tick takes the line and the engine's registers from the engine's part alone. -/
theorem engineIgnoresController : Obligations.EngineIgnoresController := by
  intro s s' t t' hs hr hr' hcfg hfifo hdout hest heshr hebit hesymt hchan h h'
  rcases step_cases h with ⟨-, hrst, -⟩ | ⟨-, -, rfl⟩
  · simp [hr] at hrst
  rcases step_cases h' with ⟨-, hrst, -⟩ | ⟨-, -, rfl⟩
  · simp [hr'] at hrst
  rw [tickState_sm hs, tickState_sm (by rw [hcfg, hs])]
  obtain ⟨e1, e2, e3, e4, e5, -⟩ := engineTick_agree hcfg hfifo hdout hest heshr hebit hesymt hchan
  exact ⟨e1, e2, e3, e4, e5⟩

/-! ### Waveforms put on the wire (spec/41_bit_serializer.md R132 to R135) -/

/-- Every bit symbol ends low (R132, R133). -/
theorem bitWave_ends_low {cfg : Config} (hwf : cfg.wf = true) (b : Bool) : ∃ l, cfg.bitWave b = l ++ [false] := by
  obtain ⟨-, hlt⟩ := Config.hiTicks_bounds hwf b
  obtain ⟨k, hk⟩ := Nat.exists_eq_add_of_lt hlt
  refine ⟨List.replicate (cfg.hiTicks b) true ++ List.replicate k false, ?_⟩
  rw [Config.bitWave, List.append_assoc, ← List.replicate_succ']
  congr 2
  omega

theorem pixelWave_ends_low {cfg : Config} (hwf : cfg.wf = true) (w : Word24) : ∃ l, cfg.pixelWave w = l ++ [false] := by
  obtain ⟨l, hl⟩ := bitWave_ends_low hwf ((w <<< 23).getLsbD 23)
  exact ⟨_, by rw [pixelWave_split, hl, ← List.append_assoc]⟩

theorem latchWave_ends_low {cfg : Config} (hwf : cfg.wf = true) : ∃ l, cfg.latchWave = l ++ [false] := by
  obtain ⟨k, hk⟩ := Nat.exists_eq_add_of_le' (Config.wf_interval hwf).1
  exact ⟨_, by rw [Config.latchWave, hk, List.replicate_succ']⟩

/-- What putting a waveform that ends low on the wire writes. -/
theorem emit_of_ends_low (s : State) {wave : List Bool} {n : Nat} (hn : wave.length = n)
    (h : ∃ l, wave = l ++ [false]) :
    s.emit wave = { s with
      wire := s.wire ++ wave
      dout := false
      tcnt := s.tcnt + BitVec.ofNat 32 n
      pins := s.pinsAt n
      script := s.script.drop n } := by
  obtain ⟨l, rfl⟩ := h
  simp only [State.emit, State.passTicks, hn, List.getLastD_concat]

/-- The ticks gone by keep their levels. -/
theorem emit_wire_before (s : State) (wave : List Bool) {k : Nat} (hk : k < s.wire.length) :
    (s.emit wave).wire[k]? = s.wire[k]? :=
  List.getElem?_append_left hk

/-- The ticks of the waveform have its levels. -/
theorem emit_wire_waveform (s : State) (wave : List Bool) (j : Nat) :
    (s.emit wave).wire[s.wire.length + j]? = wave[j]? := by
  rw [State.emit_wire, List.getElem?_append_right (by omega), Nat.add_sub_cancel_left]

/-- An operation that puts a waveform on the wire does so from every state without a reserved code. -/
theorem underCodes_emit {s : State} (hwf : s.cfg.wf = true) (h : s.CodesRun) (wave : List Bool) :
    s.underWf (s.underCodes (.next (s.emit wave))) = .next (s.emit wave) := by
  rw [underWf_ok hwf, underCodes_ok (reservedCode_none.mpr h)]

/-- Tick `j` of symbol `k` of a word's waveform is tick `j` of bit `23 - k`. -/
theorem wordWave_get {cfg : Config} (hwf : cfg.wf = true) (n : Nat) (w : Word24) {k j : Nat} (hk : k < n)
    (hj : j < cfg.total) :
    ((wordBits n w).flatMap cfg.bitWave)[k * cfg.total + j]? =
      some (decide (j < cfg.hiTicks ((w <<< k).getLsbD 23))) := by
  have hlen := Config.bitWave_length hwf (w.getLsbD 23)
  induction n generalizing w k with
  | zero => omega
  | succ n ih =>
    rw [wordBits, List.flatMap_cons]
    cases k with
    | zero =>
      rw [List.getElem?_append_left (by omega), Nat.zero_mul, Nat.zero_add, Config.bitWave_get hwf _ hj,
        BitVec.shiftLeft_zero]
    | succ k =>
      have hidx : (k + 1) * cfg.total + j = (cfg.bitWave (w.getLsbD 23)).length + (k * cfg.total + j) := by
        rw [hlen]
        ring
      rw [hidx, List.getElem?_append_right (by omega), Nat.add_sub_cancel_left,
        ih (w <<< 1) (by omega) (Config.bitWave_length hwf _), ← BitVec.shiftLeft_add, Nat.add_comm 1 k]

/-- A bit symbol executed alone (R132, R133): its levels at its ticks, and what it writes. -/
theorem emit_bitWave (s : State) (hwf : s.cfg.wf = true) (b : Bool) :
    (s.emit (s.cfg.bitWave b)).wire.length = s.wire.length + s.cfg.total ∧
    (∀ k, k < s.wire.length → (s.emit (s.cfg.bitWave b)).wire[k]? = s.wire[k]?) ∧
    (∀ j, j < s.cfg.total →
      (s.emit (s.cfg.bitWave b)).wire[s.wire.length + j]? = some (decide (j < s.cfg.hiTicks b))) ∧
    s.emit (s.cfg.bitWave b) = { s with
      wire := (s.emit (s.cfg.bitWave b)).wire
      dout := false
      tcnt := s.tcnt + BitVec.ofNat 32 s.cfg.total
      pins := s.pinsAt s.cfg.total
      script := s.script.drop s.cfg.total } := by
  have hlen := Config.bitWave_length hwf b
  exact ⟨by simp [hlen], fun k => emit_wire_before s _,
    fun j hj => by rw [emit_wire_waveform, Config.bitWave_get hwf b hj],
    emit_of_ends_low s hlen (bitWave_ends_low hwf b)⟩

/-- Settles O46: the symbols' waveforms end low and have their levels at their ticks. -/
theorem symbolResults : Obligations.SymbolResults := by
  intro s hwf h
  refine ⟨⟨_, underCodes_emit hwf h _, emit_bitWave s hwf false⟩,
    ⟨_, underCodes_emit hwf h _, emit_bitWave s hwf true⟩, ?_⟩
  rw [← emit_of_ends_low s List.length_replicate (latchWave_ends_low hwf)]
  exact underCodes_emit hwf h _

/-- Settles O47: the pixel's waveform is its 24 symbols' and ends low. -/
theorem pixelResult : Obligations.PixelResult := by
  intro w s hwf h
  have hlen := Config.pixelWave_length hwf w
  refine ⟨_, underCodes_emit hwf h _, by simp [hlen], fun k => emit_wire_before s _, fun k j hk hj => ?_,
    emit_of_ends_low s hlen (pixelWave_ends_low hwf w)⟩
  have hbit : (w <<< k).getLsbD 23 = w.getLsbD (23 - k) := by
    rw [BitVec.getLsbD_shiftLeft, decide_eq_true (by omega), decide_eq_false (by omega)]
    rfl
  rw [emit_wire_waveform, Config.pixelWave, wordWave_get hwf 24 w hk hj, hbit, Config.hiTicks]

/-! ### The call `TRANSMIT` (spec/41_bit_serializer.md R130, R131) -/

/-- The state a call begins its ticks in: the start of `TX` (log entry 23). -/
def State.transmitStart (s : State) : State := { s with cst := cstTx, txs := txsStart }

/-- A successful transmit of `n` words has the ticks it needs, in both strategies. -/
theorem transmit_ticks_le_fuel (s : State) (n : Nat) :
    4 + 24 * n * s.cfg.total + s.cfg.treset ≤ s.transmitFuel n := by
  have hwords : n * (24 * s.cfg.total) ≤ (s.fifo.length + n + 2) * (32 * (s.cfg.total + 2)) :=
    Nat.mul_le_mul (by omega) (by omega)
  have hbound : (s.fifo.length + n + 2) * (32 * (s.cfg.total + 2)) + n + 2 ≤
      (s.cfg.blockBound + 2) * ((s.fifo.length + n + 2) * (32 * (s.cfg.total + 2)) + n + 2) :=
    Nat.le_mul_of_pos_left _ (by omega)
  calc 4 + 24 * n * s.cfg.total + s.cfg.treset
      = n * (24 * s.cfg.total) + s.cfg.treset + 4 := by ring
    _ ≤ s.transmitFuel n := by rw [State.transmitFuel]; omega

/-- A call whose first `N` ticks lead out of `TX` to `t` ends at `t`. -/
theorem transmitCall_of_run {f : Feed} {N : Nat} {s t : State}
    (h : ∀ m, State.transmitRun f (N + m) s.transmitStart = State.transmitRun f m t) (hc : t.cst ≠ cstTx)
    (hN : N ≤ s.transmitFuel f.n) : s.transmitCall f = t.returns t.transmitResult := by
  obtain ⟨m, hm⟩ := Nat.exists_eq_add_of_le hN
  have hrun : State.transmitRun f (s.transmitFuel f.n) s.transmitStart = t := by
    rw [hm, h, transmitRun_left hc]
  exact congrArg (fun u : State => u.returns u.transmitResult) hrun

/-- A call whose first tick leads out of `TX` to `t` ends at `t`. -/
theorem transmitCall_of_tick {f : Feed} {s t : State} (h : s.transmitStart.serializerTick f = t) (hc : t.cst ≠ cstTx) :
    s.transmitCall f = t.returns t.transmitResult :=
  transmitCall_of_run (N := 1) (fun m => by rw [Nat.add_comm, State.transmitRun, if_pos (by rfl), h]) hc
    (le_trans (by omega) (transmit_ticks_le_fuel s f.n))

/-- The words of the sequence `TRANSMIT` is given. -/
theorem seqFeed_words (o : ChOrder) (colors : List Color) (sc : Byte) :
    (seqFeed o colors sc).words = colors.map fun c => wordOf o c sc := by
  refine List.ext_getElem (by simp [Feed.words, seqFeed]) fun i h _ => ?_
  have hi : i < colors.length := by simpa [Feed.words, seqFeed] using h
  simp [Feed.words, seqFeed, hi]

theorem transmit_wf_iff (colors : List Color) (sc : Byte) :
    (Instr.transmit colors sc).wf = true ↔ 1 ≤ colors.length ∧ colors.length ≤ 12 := by
  simp [Instr.wf]

theorem pixelWaves_length {cfg : Config} (hwf : cfg.wf = true) (ws : List Word24) :
    (ws.flatMap cfg.pixelWave).length = 24 * ws.length * cfg.total := by
  induction ws with
  | nil => simp
  | cons w ws ih =>
    rw [List.flatMap_cons, List.length_append, ih, Config.pixelWave_length hwf, List.length_cons]
    ring

/-- From a state without a reserved code `TRANSMIT` is the whole call. -/
theorem exec_transmit_call {s : State} {colors : List Color} {sc : Byte} (hwf : s.cfg.wf = true)
    (hi : (Instr.transmit colors sc).wf = true) (h : s.CodesRun) :
    exec (.transmit colors sc) s = .next (s.transmitCall (seqFeed s.cfg.chorder colors sc)) :=
  execTransmit_call hwf hi (reservedCode_none.mpr h)

theorem frameWave_length {cfg : Config} (hwf : cfg.wf = true) (ws : List Word24) :
    (cfg.frameWave ws).length = 24 * ws.length * cfg.total + cfg.treset := by
  simp [Config.frameWave, Config.latchWave, pixelWaves_length hwf]

/-- Settles O48: the ticks of a Timer-Paced transmit lead to `ADV` within the call's bound. -/
theorem transmitTimer : Obligations.TransmitTimer := by
  intro colors sc s hwf hi hcodes hs hchan hreset
  obtain ⟨hmin, hmax⟩ := (transmit_wf_iff colors sc).mp hi
  obtain ⟨w, b, p, ts, hrun⟩ := timer_transmit_run (seqFeed s.cfg.chorder colors sc) s.transmitStart hs hwf rfl rfl
    hchan hmin hmax hreset
  have hticks : 1 + 24 * colors.length * s.cfg.total + s.cfg.treset ≤ s.transmitFuel colors.length :=
    le_trans (by omega) (transmit_ticks_le_fuel s colors.length)
  have hcall := transmitCall_of_run hrun.transmitRun (by simp [State.timerDone]) hticks
  refine ⟨_, exec_transmit_call hwf hi hcodes, ?_⟩
  rw [hcall, seqFeed_words]
  simp [State.timerDone, State.after, State.transmitStart, State.transmitResult, frameWave_length hwf, Nat.add_assoc,
    Nat.add_comm 1]

/-- Settles O49: the ticks of a State-Machine transmit lead to `ADV` within the call's bound. -/
theorem transmitSm : Obligations.TransmitSm := by
  intro colors sc s hwf hi hcodes hs ⟨hfifo, hest⟩ hdout hbound hreset hchan
  obtain ⟨hmin, hmax⟩ := (transmit_wf_iff colors sc).mp hi
  obtain ⟨c, e, hrun, hcst, htxs, hidle, hlow⟩ := sm_transmit_run (s := s.transmitStart)
    (f := seqFeed s.cfg.chorder colors sc) ⟨hwf, hs, hmax, hbound, hreset, hchan⟩ hmin rfl rfl hest hfifo
  have hcall := transmitCall_of_run hrun.transmitRun (by simp [State.smAt, hcst])
    (transmit_ticks_le_fuel s colors.length)
  have hticks : 24 * colors.length * s.cfg.total + (s.cfg.treset + 1) + 1 + 1 + 1 =
      4 + 24 * colors.length * s.cfg.total + s.cfg.treset := by omega
  refine ⟨_, exec_transmit_call hwf hi hcodes, ?_⟩
  rw [hcall, seqFeed_words]
  simp [State.smAt, State.after, State.transmitStart, State.transmitResult, State.EngineQuiet, hcst, htxs, hidle, hlow,
    hdout, -List.length_flatMap, pixelWaves_length hwf, Config.latchWave, hticks]

/-- A transmit that finds the channel unavailable at its start only halts the block in that tick (R152). -/
theorem serializerTick_start_unavailable {s : State} (f : Feed) (hr : s.pins.rst = false) (hx : s.txs = txsStart)
    (hp : s.pins.chanAvail = false) : s.serializerTick f = s.endTick (s.raiseHalt causeTxFail) := by
  cases hs : s.cfg.strategy with
  | timer =>
    have htick : s.timerTick f = s.raiseHalt causeTxFail := by
      simp [State.timerTick, hx, timerStart_unavailable hp]
    rw [serializerTick_timer hs hr, htick]
  | sm =>
    have htick : s.smTick f = s.raiseHalt causeTxFail := by simp [State.smTick, hx, smStart_unavailable hp]
    have hengine : s.engineTick = s := enabled_unavailable hp _
    have hqueue : s.fifo ++ s.fifo.drop s.fifo.length = s.fifo := by simp
    rw [serializerTick_sm hs hr, htick, hengine, State.joint, State.raiseHalt_fifo, hqueue]
    rfl

/-- Settles O50: the call's first tick halts the block, is refused, faults or resets. -/
theorem transmitFails : Obligations.TransmitFails := by
  intro colors sc s hwf
  have hexec : exec (.transmit colors sc) s = execTransmit colors sc s := rfl
  refine ⟨fun hmin hmax hcodes hchan hrst => ?_, fun hlen => ?_, fun hmin hmax hrst hcause hcst hs hest => ?_,
    fun hmin hmax hrst => ?_⟩
  · have hi := (transmit_wf_iff colors sc).mpr ⟨hmin, hmax⟩
    have htick := serializerTick_start_unavailable (s := s.transmitStart) (seqFeed s.cfg.chorder colors sc) hrst rfl
      hchan
    rw [exec_transmit_call hwf hi hcodes, transmitCall_of_tick htick (by simp)]
    rfl
  · have hi : (Instr.transmit colors sc).wf = false := by simp [Instr.wf]; omega
    rw [hexec, execTransmit, underWf_ok hwf, if_pos hi]
  · have hi := (transmit_wf_iff colors sc).mpr ⟨hmin, hmax⟩
    have hruns : RunsTicks (.transmit colors sc) := .inr (.inr (.inr (.inr ⟨colors, sc, rfl⟩)))
    obtain ⟨-, -, hfault⟩ := faults_by_name fun _ => exec_of_reservedCode hwf hrst hi hruns
    exact hfault hcause hcst hs hest
  · have hi := (transmit_wf_iff colors sc).mpr ⟨hmin, hmax⟩
    have htick : s.transmitStart.serializerTick (seqFeed s.cfg.chorder colors sc) = s.resetTick := if_pos hrst
    rw [hexec, execTransmit, underWf_ok hwf, if_neg (by simp [hi]), if_pos hrst, transmitCall_of_tick htick (by simp)]
    rfl

/-! ### One Timer-Paced symbol (spec/41_bit_serializer.md R139, R140)

`timer_symbol_run` follows a symbol in states with `CRIT` set; here `CRIT` is whatever the first tick has. -/

/-- The state when the levels `l` have gone by since `s`, in the sub-state `c` with the line at `d`. -/
def State.lineAt (s : State) (l : List Bool) (c : BitVec 2) (d : Bool) : State := { s.after l with txs := c, dout := d }

/-- The state `k` ticks into the symbol of `SHR[23]` whose first tick is `s`. -/
def State.symbolAt (s : State) (k : Nat) : State :=
  s.lineAt ((s.cfg.bitWave (s.shr.getLsbD 23)).take k) (if k < s.hiTimer then txsTHigh else txsTLow)
    (decide (k < s.hiTimer))

theorem endTick_lineAt (s : State) (l : List Bool) (c c' : BitVec 2) (d d' : Bool) :
    (s.lineAt l c d).endTick (s.lineAt l c' d') = s.lineAt (l ++ [d]) c' d' := by
  rw [State.lineAt, State.lineAt, State.lineAt, ← after_append]
  rfl

theorem bitWave_take_length {cfg : Config} (hwf : cfg.wf = true) (b : Bool) {k : Nat} (hk : k ≤ cfg.total) :
    ((cfg.bitWave b).take k).length = k := by
  rw [List.length_take, Config.bitWave_length hwf, Nat.min_eq_left hk]

section TimerSymbol

variable {s : State} (hwf : s.cfg.wf = true) (ht : s.tstart = s.tcnt)
include hwf

theorem hiTimer_bounds : 1 ≤ s.hiTimer ∧ s.hiTimer < s.cfg.total := Config.hiTicks_bounds hwf _

theorem symbolAt_zero (hx : s.txs = txsTHigh) (hd : s.dout = true) : s.symbolAt 0 = s := by
  have hhi : 0 < s.hiTimer := (hiTimer_bounds hwf).1
  rw [State.symbolAt, if_pos hhi, decide_eq_true hhi, ← hx, ← hd, List.take_zero, State.lineAt, after_nil]

theorem pins_symbolAt {k : Nat} (hk : k ≤ s.cfg.total) : (s.symbolAt k).pins = s.pinsAt k :=
  congrArg s.pinsAt (bitWave_take_length hwf _ hk)

include ht

/-- The elapsed time in a symbol's tick is the tick's index (R142). -/
theorem elapsed_symbolAt {k : Nat} (hk : k < s.cfg.total) : (s.symbolAt k).elapsed.toNat = k := by
  obtain ⟨-, -, -, htotal⟩ := Config.wf_bit hwf
  have helapsed : (s.symbolAt k).elapsed = s.elapsed + BitVec.ofNat 32 k :=
    (elapsed_after s _).trans (by rw [bitWave_take_length hwf _ hk.le])
  rw [helapsed, State.elapsed, ht, BitVec.sub_self, BitVec.zero_add, BitVec.toNat_ofNat, Nat.mod_eq_of_lt (by omega)]

/-- Before a symbol's last tick the line goes low in the last tick of the high time and else holds (R139, R140). -/
theorem timerTick_symbolAt (f : Feed) {k : Nat} (hk : k + 1 < s.cfg.total) :
    (s.symbolAt k).timerTick f = s.lineAt ((s.cfg.bitWave (s.shr.getLsbD 23)).take k)
      (if k + 1 < s.hiTimer then txsTHigh else txsTLow) (decide (k + 1 < s.hiTimer)) := by
  have helapsed := elapsed_symbolAt hwf ht (k := k) (by omega)
  by_cases hhigh : k < s.hiTimer
  · rw [timerTick_high f (if_pos hhigh)]
    by_cases hlast : k + 1 < s.hiTimer
    · rw [timerHigh_before (by rw [helapsed]; exact hlast), State.symbolAt]
      simp only [hhigh, hlast]
    · rw [timerHigh_last (by rw [helapsed]; exact Nat.le_of_not_lt hlast), if_neg hlast, decide_eq_false hlast]
      rfl
  · have hnext : ¬ k + 1 < s.hiTimer := by omega
    rw [timerTick_low f (if_neg hhigh), timerLow_before (by rw [helapsed]; exact hk), State.symbolAt]
    simp only [hhigh, hnext]

theorem endTick_symbolAt (f : Feed) {k : Nat} (hk : k + 1 < s.cfg.total) :
    (s.symbolAt k).endTick ((s.symbolAt k).timerTick f) = s.symbolAt (k + 1) := by
  have hhi := (hiTimer_bounds hwf).2.le
  rw [timerTick_symbolAt hwf ht f hk, State.symbolAt, endTick_lineAt, State.symbolAt,
    bitWave_take_succ s.cfg _ (by omega) hhi]
  rfl

/-- The ticks of a symbol before its last. -/
theorem symbolAt_run (f : Feed) (hs : s.cfg.strategy = .timer) (hc : s.cst = cstTx) (k : Nat) (hk : k < s.cfg.total)
    (hr : s.NoResetFor k) : TxRun f k (s.symbolAt 0) (s.symbolAt k) := by
  induction k with
  | zero => exact .done _
  | succ k ih =>
    have hrst : (s.symbolAt k).pins.rst = false := by rw [pins_symbolAt hwf (by omega)]; exact hr k (by omega)
    have htick := TxRun.tick (f := f) (s := s.symbolAt k) hc hrst (.done _)
    rw [serializerTick_timer (by exact hs) hrst, endTick_symbolAt hwf ht f hk] at htick
    exact (ih (by omega) (noReset_weaken hr (by omega))).trans htick

/-- A whole symbol: its last tick, with the line low, is `T_LOW`'s. -/
theorem symbol_run (f : Feed) (hs : s.cfg.strategy = .timer) (hc : s.cst = cstTx) (hx : s.txs = txsTHigh)
    (hd : s.dout = true) (hr : s.NoResetFor s.cfg.total) :
    ∃ l, l ++ [false] = s.cfg.bitWave (s.shr.getLsbD 23) ∧
      TxRun f s.cfg.total s ((s.lineAt l txsTLow false).endTick ((s.lineAt l txsTLow false).timerLow f)) ∧
      s.cfg.total ≤ (s.lineAt l txsTLow false).elapsed.toNat + 1 := by
  have hhi := (hiTimer_bounds hwf).2
  obtain ⟨k, hk⟩ := Nat.exists_eq_add_of_le' (Nat.one_le_of_lt hhi)
  have hlow : ¬ k < s.hiTimer := by omega
  have hlast : s.symbolAt k = s.lineAt ((s.cfg.bitWave (s.shr.getLsbD 23)).take k) txsTLow false := by
    rw [State.symbolAt, if_neg hlow, decide_eq_false hlow]
  have hrun := symbolAt_run hwf ht f hs hc k (by omega) (noReset_weaken hr (by omega))
  have hrst : (s.symbolAt k).pins.rst = false := by rw [pins_symbolAt hwf (by omega)]; exact hr k (by omega)
  have htick := TxRun.tick (f := f) (s := s.symbolAt k) hc hrst (.done _)
  rw [serializerTick_timer (by exact hs) hrst, timerTick_low f (if_neg hlow)] at htick
  have helapsed := elapsed_symbolAt hwf ht (k := k) (by omega)
  rw [symbolAt_zero hwf hx hd] at hrun
  rw [hlast] at hrun htick helapsed
  refine ⟨_, ?_, hk ▸ hrun.trans htick, by omega⟩
  have hsucc := bitWave_take_succ s.cfg (s.shr.getLsbD 23) (k := k) (by omega) hhi.le
  rw [← hk, List.take_of_length_le (Config.bitWave_length hwf _).le] at hsucc
  rw [← decide_eq_false hlow]
  exact hsucc.symm

end TimerSymbol

/-- Settles O35: the symbol's last tick ends its waveform and is `T_LOW`'s, in one of its three cases. -/
theorem timerSymbolRun : Obligations.TimerSymbolRun := by
  intro s hwf hs hh hc hx ht hd hr
  obtain ⟨l, hwave, hrun, hlast⟩ := symbol_run hwf ht s.frameFeed hs hc hx hd hr
  have hticks : BitVec.ofNat 32 l.length + 1#32 = BitVec.ofNat 32 s.cfg.total := by
    rw [← Config.bitWave_length hwf (s.shr.getLsbD 23), ← hwave, List.length_append]
    exact (BitVec.ofNat_add _ _).symm
  refine ⟨_, hrun.run rfl hwf hh (by simp [hs]), ?_⟩
  by_cases hb : 1 < s.bitcnt.toNat
  · rw [timerLow_nextBit (s := s.lineAt l txsTLow false) (f := s.frameFeed) hlast hb]
    simp [State.lineAt, State.after, hwave, hc, hticks, BitVec.add_assoc, hb, Nat.not_le.mpr hb]
  by_cases hp : s.pix.toNat + 1 < s.cfg.npix
  · rw [timerLow_nextPixel (s := s.lineAt l txsTLow false) (f := s.frameFeed) hlast (Nat.le_of_not_lt hb) hp]
    simp [State.lineAt, State.after, hwave, hc, hticks, BitVec.add_assoc, hb, Nat.not_le.mpr hp]
  · rw [timerLow_latch (s := s.lineAt l txsTLow false) (f := s.frameFeed) hlast (Nat.le_of_not_lt hb)
      (Nat.le_of_not_lt hp)]
    simp [State.lineAt, State.after, hwave, hc, hticks, BitVec.add_assoc, hb, hp]

/-! ### One engine symbol (spec/41_bit_serializer.md R149, R150)

`engine_mid` and `engine_last` follow the engine in states written as `State.smAt`; every state is one. -/

/-- The controller's registers a State-Machine transmit writes, in a state. -/
def State.ctl (s : State) : SmCtl := ⟨s.cst, s.txs, s.pix, s.blk, s.lcnt⟩

/-- The line and the engine's registers, in a state. -/
def State.eng (s : State) : SmEng := ⟨s.dout, s.est, s.eshr, s.ebit, s.esymt⟩

theorem smAt_self (s : State) : s.smAt [] s.ctl s.eng s.fifo = s := by
  rw [State.smAt, after_nil]
  rfl

/-- In `SM` the engine's registers after a tick are what its part of the tick makes of them. -/
theorem eng_tickState {s : State} (hs : s.cfg.strategy = .sm) : s.tickState.eng = s.engineTick.eng := by
  rw [tickState_sm hs]
  rfl

/-- A tick inside a symbol. -/
theorem sends_engineTick {s : State} {w : Word24} {n k : Nat} (hwf : s.cfg.wf = true) (hp : s.pins.chanAvail = true)
    (h : SmEng.Sends s.cfg w n k s.eng) (hk : k + 1 < s.cfg.total) :
    SmEng.Sends s.cfg w n (k + 1) s.engineTick.eng := by
  obtain ⟨e, htick, he⟩ := engine_mid (l := []) (c := s.ctl) (q := s.fifo) hwf (pinsAt_zero s ▸ hp) h hk
  rw [smAt_self] at htick
  exact htick ▸ he

/-- The last tick of a symbol that is not its word's last. -/
theorem engineTick_eng_nextBit {s : State} {w : Word24} {n k : Nat} (hwf : s.cfg.wf = true)
    (hp : s.pins.chanAvail = true) (h : SmEng.Sends s.cfg w n k s.eng) (hk : k + 1 = s.cfg.total) (hn : 1 < n) :
    s.engineTick.eng = ⟨true, estHigh, w <<< 1, s.ebit - 1, 0⟩ := by
  have htick := engine_last (l := []) (c := s.ctl) (q := s.fifo) hwf (pinsAt_zero s ▸ hp) h hk
  rw [smAt_self, if_pos hn] at htick
  exact htick ▸ rfl

/-- `t` is a state `k` ticks after the first tick `s` of an engine symbol, the symbol's levels on the wire, whatever the
controller has done. -/
structure State.SendsTo (s : State) (k : Nat) (t : State) : Prop where
  cfg : t.cfg = s.cfg
  codes : t.CodesLegal
  pins : ∀ i, t.pinsAt i = s.pinsAt (k + i)
  eng : SmEng.Sends s.cfg s.eshr s.ebit.toNat k t.eng
  wire : t.wire = s.wire ++ (s.cfg.bitWave (s.eshr.getLsbD 23)).take k

section EngineSymbol

variable {s t : State} {k : Nat}

theorem sendsTo_zero (hwf : s.cfg.wf = true) (hcodes : s.CodesLegal) (he : s.est = estHigh) (hy : s.esymt = 0)
    (hd : s.dout = true) : s.SendsTo 0 s := by
  have hhi : 0 < s.cfg.hiTicks (s.eshr.getLsbD 23) := (Config.hiTicks_bounds hwf _).1
  refine ⟨rfl, hcodes, fun i => by rw [Nat.zero_add], ⟨?_, ?_, rfl, rfl, ?_⟩, by simp⟩
  · rw [if_pos hhi]; exact he
  · rw [decide_eq_true hhi]; exact hd
  · exact congrArg BitVec.toNat hy

theorem State.SendsTo.ready (hwf : s.cfg.wf = true) (h : s.SendsTo k t) : t.Ready := by
  obtain ⟨hcst, hest, hcause⟩ := h.codes
  exact ⟨by rw [h.cfg, hwf], hcst, hcause, fun _ => hest⟩

theorem State.SendsTo.pins_now (h : s.SendsTo k t) : t.pins = s.pinsAt k := by
  rw [← pinsAt_zero, h.pins, Nat.add_zero]

/-- A tick of the symbol puts its level on the wire. -/
theorem State.SendsTo.wire_tickState (hwf : s.cfg.wf = true) (h : s.SendsTo k t) (hk : k < s.cfg.total) :
    t.tickState.wire = s.wire ++ (s.cfg.bitWave (s.eshr.getLsbD 23)).take (k + 1) := by
  have hdout : t.dout = decide (k < s.cfg.hiTicks (s.eshr.getLsbD 23)) := h.eng.dout
  rw [tickState_wire, h.wire, hdout, bitWave_take_succ s.cfg _ hk (Config.hiTicks_bounds hwf _).2.le, List.append_assoc]

theorem State.SendsTo.tick (hwf : s.cfg.wf = true) (hs : s.cfg.strategy = .sm) (h : s.SendsTo k t)
    (hp : (s.pinsAt k).chanAvail = true) (hk : k + 1 < s.cfg.total) : s.SendsTo (k + 1) t.tickState := by
  have heng := sends_engineTick (s := t) (by rw [h.cfg, hwf]) (by rw [h.pins_now, hp]) (h.cfg ▸ h.eng) (h.cfg ▸ hk)
  refine ⟨(tickState_cfg t).trans h.cfg, codesLegal_tickState h.codes, fun i => ?_, ?_, h.wire_tickState hwf (by omega)⟩
  · rw [pinsAt_tickState, h.pins, Nat.add_comm i, Nat.add_assoc]
  · rw [eng_tickState (by rw [h.cfg, hs]), ← h.cfg]
    exact heng

/-- The last tick, with bits left, leads to the next bit's first. -/
theorem State.SendsTo.eng_nextBit (hwf : s.cfg.wf = true) (hs : s.cfg.strategy = .sm) (h : s.SendsTo k t)
    (hp : (s.pinsAt k).chanAvail = true) (hk : k + 1 = s.cfg.total) (hn : 1 < s.ebit.toNat) :
    t.tickState.eng = ⟨true, estHigh, s.eshr <<< 1, s.ebit - 1, 0⟩ := by
  have hebit : t.ebit = s.ebit := BitVec.eq_of_toNat_eq h.eng.ebit
  rw [eng_tickState (by rw [h.cfg, hs]), ← hebit]
  exact engineTick_eng_nextBit (by rw [h.cfg, hwf]) (by rw [h.pins_now, hp]) (h.cfg ▸ h.eng) (h.cfg ▸ hk) hn

/-- The ticks of a symbol before its last. -/
theorem sendsTo_run (hwf : s.cfg.wf = true) (hs : s.cfg.strategy = .sm) (h : s.SendsTo 0 s) (hr : s.NoResetFor k)
    (hp : s.ChannelFor k) (hk : k < s.cfg.total) : ∃ t, Host.Core.run core k s = .next t ∧ s.SendsTo k t := by
  induction k with
  | zero => exact ⟨s, rfl, h⟩
  | succ k ih =>
    obtain ⟨t, hrun, ht⟩ := ih (noReset_weaken hr (by omega)) (fun i hi => hp i (by omega)) (by omega)
    have hstep := step_tick (ht.ready hwf) (by rw [ht.pins_now]; exact hr k (by omega))
    exact ⟨_, by rw [run_add k 1 hrun, run_succ 0 hstep]; rfl, ht.tick hwf hs (hp k (by omega)) hk⟩

end EngineSymbol

/-- Settles O45: each tick of the symbol puts its level on the wire, and the last one goes to the next bit. -/
theorem engineSymbolRun : Obligations.EngineSymbolRun := by
  intro s hwf hs hcodes he hy hd hr hp
  have htotal : 1 ≤ s.cfg.total := Nat.one_le_of_lt (Config.hiTicks_bounds hwf true).2
  obtain ⟨k, hk⟩ := Nat.exists_eq_add_of_le' htotal
  obtain ⟨t, hrun, ht⟩ := sendsTo_run (k := k) hwf hs (sendsTo_zero hwf hcodes he hy hd) (noReset_weaken hr (by omega))
    (fun i hi => hp i (by omega)) (by omega)
  have hstep := step_tick (ht.ready hwf) (by rw [ht.pins_now]; exact hr k (by omega))
  refine ⟨t.tickState, by rw [hk, run_add k 1 hrun, run_succ 0 hstep]; rfl, ?_, fun hn => ?_⟩
  · rw [ht.wire_tickState hwf (by omega), ← hk, List.take_of_length_le (Config.bitWave_length hwf _).le]
  · obtain ⟨hdout, hest, heshr, hebit, hesymt⟩ := SmEng.mk.inj (ht.eng_nextBit hwf hs (hp k (by omega)) hk.symm hn)
    exact ⟨hest, hesymt, hdout, heshr, hebit⟩

end Sys2Proof.Machine

namespace Sys2Proof.Machine

/-! ### The controller's part of a tick, by `CST` (spec/42_animation_loop.md R181 to R187) -/

section Controller

variable {s : State}

theorem ctlPart_init_ok (h : s.cst = cstInit) (hi : s.pins.initOk = true) : s.ctlPart = s.goTo cstRead := by
  simp [State.ctlPart, h, hi]

theorem ctlPart_init_fails (h : s.cst = cstInit) (hi : s.pins.initOk = false) :
    s.ctlPart = s.raiseHalt causeInitFail := by
  simp [State.ctlPart, h, hi]

theorem ctlPart_read (h : s.cst = cstRead) : s.ctlPart = { s with phl := s.phase, cst := cstSeq } := by
  simp [State.ctlPart, h, State.goTo]

theorem ctlPart_seq (h : s.cst = cstSeq) :
    s.ctlPart = { s with col := sequencer s.cfg s.phl, txs := txsStart, cst := cstTx } := by
  simp [State.ctlPart, h, State.goTo]

theorem ctlPart_adv (h : s.cst = cstAdv) :
    s.ctlPart = { s with phase := s.phase + 1, ftmr := BitVec.ofNat 32 s.cfg.frameTicks, cst := cstWait } := by
  simp [State.ctlPart, h, State.goTo]

theorem ctlPart_wait_last (h : s.cst = cstWait) (hf : s.ftmr.toNat ≤ 1) : s.ctlPart = s.goTo cstRead := by
  simp [State.ctlPart, h, hf]

theorem ctlPart_wait_before (h : s.cst = cstWait) (hf : 1 < s.ftmr.toNat) :
    s.ctlPart = { s with ftmr := s.ftmr - 1 } := by
  simp [State.ctlPart, h, Nat.not_le.mpr hf]

theorem ctlPart_halt (h : s.cst = cstHalt) : s.ctlPart = s := by
  simp [State.ctlPart, h]

end Controller

/-! ### Where nothing is left to send (spec/42_animation_loop.md R188) -/

/-- The bit engine of a quiet state does nothing: enabled or not, it is idle with no word waiting (R148, R151). -/
theorem engineTick_of_quiet {s : State} (h : s.EngineQuiet) : s.engineTick = s := by
  obtain ⟨hfifo, hest⟩ := h
  cases hp : s.pins.chanAvail with
  | false => exact enabled_unavailable hp _
  | true => simp [State.engineTick, enabled_available hp, hest, engineIdle_empty hfifo]

/-- A tick of `SM` in which nothing is pushed keeps the engine quiet. -/
theorem engineQuiet_tickState {s : State} (hs : s.cfg.strategy = .sm) (h : s.EngineQuiet) (hpush : s.pushedWords = []) :
    s.tickState.EngineQuiet := by
  have hengine := engineTick_of_quiet h
  obtain ⟨hfifo, hest⟩ := h
  refine ⟨?_, ?_⟩
  · rw [tickState_fifo hs, hengine, hpush, hfifo, List.nil_append]
  · rw [tickState_sm hs, State.endTick_est, State.joint_est, hengine, hest]

/-- A State-Machine tick in `TX` after which nothing is left to send is one of a drain that found the engine quiet
(R146) or of the latch (R147). -/
theorem nothingToSend_smTick {s : State} (f : Feed) (hc : s.cst = cstTx) (h : (s.smTick f).NothingToSend) :
    (s.txs = txsSDrain ∧ s.EngineQuiet) ∨ s.txs = txsSLatch := by
  have hblocked : s.blocked.NothingToSend → s.txs = txsStart ∨ s.txs = txsSLatch := by
    rcases blocked_cases s with ⟨-, e⟩ | ⟨-, e⟩ <;> rw [e] <;> simp [State.NothingToSend, hc]
  rcases smTick_cases s f with ⟨hx, -, e⟩ | ⟨hx, -, e⟩ | ⟨hx, -, -, e⟩ | ⟨hx, -, -, e⟩ | ⟨hx, -, e⟩ |
    ⟨hx, hq, he, -⟩ | ⟨hx, -, -, e⟩ | ⟨hx, -, -, e⟩ | ⟨hx, -, -⟩ | ⟨hx, -, -⟩
  case inr.inr.inr.inr.inr.inl => exact .inl ⟨hx, hq, he⟩
  case inr.inr.inr.inr.inr.inr.inr.inr.inl | inr.inr.inr.inr.inr.inr.inr.inr.inr => exact .inr hx
  case inr.inr.inr.inr.inl | inr.inr.inr.inr.inr.inr.inr.inl =>
    rw [e] at h
    exact absurd (hblocked h) (by simp [hx])
  all_goals
    rw [e] at h
    simp [State.NothingToSend, hc, hx] at h

/-- Outside `TX` a tick of the controller that leaves nothing to send had nothing to send. -/
theorem nothingToSend_of_ctlPart {s : State} (hc : s.cst ≠ cstTx) (hm : s.CauseMatches) (h : s.ctlPart.NothingToSend) :
    s.NothingToSend := by
  refine .inl ⟨hc, fun hcause => ?_⟩
  have hhalt : s.cst = cstHalt := hm.mpr (.inr hcause)
  rw [ctlPart_halt hhalt] at h
  simp [State.NothingToSend, hhalt, hcause] at h

theorem quietOutsideTx_tickState {s : State} (hm : s.CauseMatches) (hq : s.QuietOutsideTx) :
    s.tickState.QuietOutsideTx := by
  intro hs h
  rw [tickState_cfg] at hs
  rw [State.NothingToSend, tickState_cst, tickState_haltCause, tickState_txs] at h
  by_cases hc : s.cst = cstTx
  · rw [ctlPart_tx hc, State.txTick, hs] at h
    rcases nothingToSend_smTick _ hc h with ⟨hx, hquiet⟩ | hx
    · exact engineQuiet_tickState hs hquiet (by simp [State.pushedWords, hx])
    · exact engineQuiet_tickState hs (hq hs (.inr ⟨hc, .inr hx⟩)) (by simp [State.pushedWords, hx])
  · exact engineQuiet_tickState hs (hq hs (nothingToSend_of_ctlPart hc hm h)) (by simp [State.pushedWords, hc])

/-- Settles O59: reset empties the queue and idles the engine; a tick that leaves nothing to send found nothing to send,
or a drain that was done, and pushes nothing. -/
theorem quietKept : Obligations.QuietKept := by
  intro s t ⟨hm, hq⟩ h
  rcases step_cases h with ⟨-, -, rfl⟩ | ⟨-, -, rfl⟩
  · exact quietOutsideTx_resetWith s.cfg (s.tcnt + 1) (s.pinsAt 1)
  · exact quietOutsideTx_tickState hm hq

/-! ### The obligations of the one-tick operations -/

/-- Settles O10: the two branches of the check. -/
theorem initchkResult : Obligations.InitchkResult := fun _ hwf =>
  ⟨fun hi => underWf_next hwf (if_pos hi), fun hi => underWf_next hwf (if_neg (by simp [hi]))⟩

/-- Settles O11: `RDPHASE` has one case. -/
theorem rdphaseResult : Obligations.RdphaseResult := fun _ hwf => underWf_next hwf rfl

theorem sequencer_wheel {cfg : Config} (h : cfg.policy = .wheel) (φ : Byte) : sequencer cfg φ = wheel φ := by
  rw [sequencer, h]

theorem sequencer_hsv {cfg : Config} (h : cfg.policy = .hsv) (φ : Byte) :
    sequencer cfg φ = Config.hsv2rgb φ cfg.hsvSat cfg.hsvVal := by
  rw [sequencer, h, hsv]

/-- Settles O12: `SEQ` writes the sequencer's colour, which `POLICY` selects. -/
theorem seqResult : Obligations.SeqResult := fun s hwf =>
  ⟨fun hp => underWf_next hwf (by rw [sequencer_wheel hp]; rfl),
    fun hp => underWf_next hwf (by rw [sequencer_hsv hp]; rfl)⟩

/-- The operation of a `TXS` code does the Timer-Paced tick that code selects (R90). -/
theorem exec_decodeTxsTimer {s : State} (hwf : s.cfg.wf = true) :
    exec (decodeTxsTimer s.txs) s = .next (s.timerTick s.frameFeed) := by
  rcases txs_cases s.txs with h | h | h | h <;>
    simp [decodeTxsTimer, State.timerTick, h, exec, execTStart, execTHigh, execTLow, execTLatch, underWf_ok hwf]

/-- The operation of a `TXS` code does the State-Machine tick that code selects (R91). -/
theorem exec_decodeTxsSm {s : State} (hwf : s.cfg.wf = true) :
    exec (decodeTxsSm s.txs) s = .next (s.smTick s.frameFeed) := by
  rcases txs_cases s.txs with h | h | h | h <;>
    simp [decodeTxsSm, State.smTick, h, exec, execSStart, execSPush, execSDrain, execSLatch, underWf_ok hwf]

/-- Settles O13: `TX` and the operation decoded from `TXS` do the strategy's tick on the frame's sequence. -/
theorem txRunsSelected : Obligations.TxRunsSelected := fun s hwf =>
  ⟨fun hs => ⟨_, _, rfl, underWf_next hwf (by rw [State.txTick, hs]), exec_decodeTxsTimer hwf⟩,
    fun hs => ⟨_, _, rfl, underWf_next hwf (by rw [State.txTick, hs]), exec_decodeTxsSm hwf⟩⟩

theorem toNat_frameTicks {cfg : Config} (hwf : cfg.wf = true) :
    (BitVec.ofNat 32 cfg.frameTicks).toNat = cfg.frameTicks := by
  obtain ⟨-, -, -, hlt⟩ := Config.wf_interval hwf
  rw [BitVec.toNat_ofNat, Nat.mod_eq_of_lt hlt]

/-- Settles O14: the increment wraps at 256, and `FRAME_TICKS` fits the counter. -/
theorem advanceResult : Obligations.AdvanceResult := fun s hwf =>
  ⟨_, underWf_next hwf rfl, BitVec.toNat_add s.phase 1, toNat_frameTicks hwf, rfl⟩

/-- Settles O15: the two branches of the wait. -/
theorem waitframeResult : Obligations.WaitframeResult := fun s hwf =>
  ⟨fun hf => underWf_next hwf (if_pos hf), fun hf =>
    ⟨s.ftmr - 1, by bv_omega, underWf_next hwf (if_neg (Nat.not_le.mpr hf))⟩⟩

/-! ### `HALT` and the transitions of `CST` (spec/42_animation_loop.md R187, R189) -/

/-- Settles O16: in `HALT` the controller's part of a tick is the state, and in `TIMER` it is the whole tick's. -/
theorem haltAbsorbs : Obligations.HaltAbsorbs := by
  refine ⟨fun s hwf => underWf_next hwf rfl, fun s t hc hr h => ?_⟩
  rcases step_cases h with ⟨-, hr', -⟩ | ⟨-, -, rfl⟩
  · simp [hr] at hr'
  · have hpart := ctlPart_halt hc
    simp only [tickState_cst, tickState_haltCause, tickState_phase, tickState_phl, tickState_col, tickState_txs,
      tickState_pix, tickState_ftmr, tickState_shr, tickState_bitcnt, tickState_tstart, tickState_lcnt, tickState_blk,
      tickState_crit, tickState_tcnt, hpart, hc, true_and]
    intro hs
    rw [tickState_timer hs, hpart]
    exact ⟨rfl, rfl⟩

/-- A tick in `TX` stays there, or leaves it with success and `TXS` at its start value, or fails. -/
theorem txTick_transitions {s : State} (f : Feed) (hc : s.cst = cstTx) :
    (s.txTick f).cst = cstTx ∨ ((s.txTick f).cst = cstAdv ∧ (s.txTick f).txs = txsStart) ∨
    ((s.txTick f).cst = cstHalt ∧ (s.txTick f).haltCause = causeTxFail) := by
  unfold State.txTick
  split
  · rcases timerTick_cases s f with ⟨-, -, e⟩ | ⟨-, -, e⟩ | ⟨-, -, e⟩ | ⟨-, -, e⟩ | ⟨-, -, e⟩ | ⟨-, -, -, e⟩ |
      ⟨-, -, -, -, e⟩ | ⟨-, -, -, -, e⟩ | ⟨-, -, e⟩ | ⟨-, -, e⟩ <;> simp [e, hc]
  · have hblocked : s.blocked.cst = cstTx ∨ (s.blocked.cst = cstHalt ∧ s.blocked.haltCause = causeTxFail) := by
      rcases blocked_cases s with ⟨-, e⟩ | ⟨-, e⟩ <;> simp [e, hc]
    rcases smTick_cases s f with ⟨-, -, e⟩ | ⟨-, -, e⟩ | ⟨-, -, -, e⟩ | ⟨-, -, -, e⟩ | ⟨-, -, e⟩ | ⟨-, -, -, e⟩ |
      ⟨-, -, -, e⟩ | ⟨-, -, -, e⟩ | ⟨-, -, e⟩ | ⟨-, -, e⟩ <;> rw [e]
    case inr.inr.inr.inr.inl | inr.inr.inr.inr.inr.inr.inr.inl => exact hblocked.imp_right .inr
    all_goals simp [hc]

/-- Settles O17: where the controller's part of a tick leads, by `CST`. -/
theorem cstTransitions : Obligations.CstTransitions := by
  intro s t hr h
  rcases step_cases h with ⟨-, hr', -⟩ | ⟨-, -, rfl⟩
  · simp [hr] at hr'
  rw [tickState_cst, tickState_txs, tickState_haltCause]
  refine ⟨fun hc => ?_, fun hc => by rw [ctlPart_read hc], fun hc => by rw [ctlPart_seq hc],
    fun hc => by rw [ctlPart_tx hc]; exact txTick_transitions _ hc, fun hc => by rw [ctlPart_adv hc], fun hc => ?_,
    fun hc => by rw [ctlPart_halt hc, hc]⟩
  · cases hi : s.pins.initOk with
    | true => rw [ctlPart_init_ok hc hi]; rfl
    | false => rw [ctlPart_init_fails hc hi]; rfl
  · by_cases hf : s.ftmr.toNat ≤ 1
    · rw [ctlPart_wait_last hc hf, if_pos hf, State.goTo_cst]
    · rw [ctlPart_wait_before hc (Nat.lt_of_not_le hf), if_neg hf, hc]

/-! ### The ports a tick reads (spec/42_animation_loop.md R181, spec/41_bit_serializer.md R138, R152) -/

/-- The input ports showing other levels. -/
def State.withPins (s : State) (p : Pins) : State := { s with pins := p }

@[simp] theorem State.withPins_cfg (s : State) (p : Pins) : (s.withPins p).cfg = s.cfg := rfl

/-- The levels `p` agree with the state's ports wherever its tick reads them: `init_ok` in `INIT`, `chan_avail` in `SM`
and at a transmit's start. -/
structure State.ReadPortsAgree (s : State) (p : Pins) : Prop where
  initOk : s.cst = cstInit → p.initOk = s.pins.initOk
  chanAvail : s.cfg.strategy = .sm ∨ (s.cst = cstTx ∧ s.txs = txsStart) → p.chanAvail = s.pins.chanAvail

section Ports

variable {s : State} {p : Pins} (f : Feed)

/-- A choice between two updates shows the other levels branch by branch. -/
theorem withPins_ite (c : Prop) [Decidable c] (a b : State) (p : Pins) :
    (if c then a else b).withPins p = if c then a.withPins p else b.withPins p :=
  apply_ite (·.withPins p) c a b

theorem timerStart_withPins (h : p.chanAvail = s.pins.chanAvail) :
    (s.withPins p).timerStart f = (s.timerStart f).withPins p := by
  simp only [State.timerStart, withPins_ite, ← h]
  rfl

/-- The Timer-Paced strategy reads `chan_avail` in `T_START` alone (R138). -/
theorem timerTick_withPins (h : s.txs = txsStart → p.chanAvail = s.pins.chanAvail) :
    (s.withPins p).timerTick f = (s.timerTick f).withPins p := by
  by_cases hx : s.txs = txsStart
  · have hstart : s.timerTick f = s.timerStart f := if_pos hx
    rw [hstart, ← timerStart_withPins f (h hx)]
    exact if_pos hx
  · simp only [State.timerTick, if_neg hx, State.timerHigh, State.timerLow, State.timerLatch, withPins_ite]
    exact if_neg hx

theorem smTick_withPins (h : p.chanAvail = s.pins.chanAvail) :
    (s.withPins p).smTick f = (s.smTick f).withPins p := by
  simp only [State.smTick, State.smStart, State.smPush, State.smDrain, State.smLatch, State.blocked, withPins_ite, ← h]
  rfl

theorem txTick_withPins (hc : s.cst = cstTx) (h : s.ReadPortsAgree p) :
    (s.withPins p).txTick f = (s.txTick f).withPins p := by
  cases hs : s.cfg.strategy with
  | timer =>
    simp only [State.txTick, State.withPins_cfg, hs]
    exact timerTick_withPins f fun hx => h.chanAvail (.inr ⟨hc, hx⟩)
  | sm =>
    simp only [State.txTick, State.withPins_cfg, hs]
    exact smTick_withPins f (h.chanAvail (.inl hs))

theorem ctlPart_withPins (h : s.ReadPortsAgree p) : (s.withPins p).ctlPart = s.ctlPart.withPins p := by
  by_cases hinit : s.cst = cstInit
  · cases hi : s.pins.initOk with
    | true =>
      rw [ctlPart_init_ok hinit hi, ctlPart_init_ok (s := s.withPins p) hinit ((h.initOk hinit).trans hi)]
      rfl
    | false =>
      rw [ctlPart_init_fails hinit hi, ctlPart_init_fails (s := s.withPins p) hinit ((h.initOk hinit).trans hi)]
      rfl
  by_cases htx : s.cst = cstTx
  · rw [ctlPart_tx htx, ctlPart_tx (s := s.withPins p) htx]
    exact txTick_withPins s.frameFeed htx h
  · have hinit' : (s.withPins p).cst ≠ cstInit := hinit
    have htx' : (s.withPins p).cst ≠ cstTx := htx
    simp only [State.ctlPart, withPins_ite, if_neg hinit, if_neg htx, if_neg hinit', if_neg htx']
    rfl

/-- Of the engine's part, a tick takes registers that depend on `chan_avail` alone of the ports (R151). -/
theorem joint_withPins (c : State) (h : p.chanAvail = s.pins.chanAvail) :
    (s.withPins p).joint (c.withPins p) (s.withPins p).engineTick = (s.joint c s.engineTick).withPins p := by
  obtain ⟨hdout, hest, heshr, hebit, hesymt, hfifo⟩ :=
    engineTick_agree (s := s) (s' := s.withPins p) rfl rfl rfl rfl rfl rfl rfl h
  simp only [State.joint, hdout, hest, heshr, hebit, hesymt, hfifo]
  rfl

/-- The end of a tick takes the next ports from the samples to come, so that the next states differ in their ports at
most. -/
theorem endTick_withPins (s c : State) (p : Pins) :
    ((s.withPins p).endTick (c.withPins p)).withPins (s.endTick c).pins = s.endTick c := rfl

theorem tickState_withPins (h : s.ReadPortsAgree p) :
    (s.withPins p).tickState.withPins s.tickState.pins = s.tickState := by
  cases hs : s.cfg.strategy with
  | timer =>
    rw [tickState_timer hs, tickState_timer (s := s.withPins p) hs, ctlPart_withPins h, endTick_withPins]
  | sm =>
    rw [tickState_sm hs, tickState_sm (s := s.withPins p) hs, ctlPart_withPins h,
      joint_withPins _ (h.chanAvail (.inl hs)), endTick_withPins]

/-- Whether a step ticks depends on `rst` alone of the ports, and its tick on those it reads. -/
theorem step_withPins {t : State} (hr : p.rst = s.pins.rst) (h : s.ReadPortsAgree p) (hstep : step s = .next t) :
    ∃ t', step (s.withPins p) = .next t' ∧ t'.withPins t.pins = t := by
  rcases step_cases hstep with ⟨hwf, hrst, rfl⟩ | ⟨hready, hrst, rfl⟩
  · exact ⟨_, step_reset hwf (hr.trans hrst), rfl⟩
  · exact ⟨_, step_tick hready (hr.trans hrst), tickState_withPins h⟩

end Ports

/-- Settles O34: both changes agree with the ports wherever the tick reads them. -/
theorem inputsReadOnlyWhere : Obligations.InputsReadOnlyWhere :=
  ⟨fun _ _ _ hc hstep => step_withPins rfl ⟨fun hinit => absurd hinit hc, fun _ => rfl⟩ hstep,
    fun s _ _ hs hc hstep => step_withPins rfl ⟨fun _ => rfl, fun hread =>
      absurd hread (not_or_intro (by simp [hs]) hc)⟩ hstep⟩

/-! ### Frames of the frame-level semantics (spec/42_animation_loop.md R190) -/

section Frames

variable {cfg : Config} {f : FrameState}

/-- A frame of a running block whose transmit succeeds. -/
theorem frame_sent (hwf : cfg.wf = true) (hc : f.cause ≠ causeReserved) (hh : f.halted = false) :
    f.frame cfg .sent = .next { f with phase := f.phase + 1, trace := f.trace ++ frameTrace cfg f.phase } := by
  simp [FrameState.frame, hwf, hc, hh]

/-- A frame of a running block whose transmit fails. -/
theorem frame_failed (hwf : cfg.wf = true) (hc : f.cause ≠ causeReserved) (hh : f.halted = false) (n : Nat) :
    f.frame cfg (.failed n) =
      .next { f with halted := true, cause := causeTxFail, trace := f.trace ++ failTrace cfg f.phase n } := by
  simp [FrameState.frame, hwf, hc, hh]

/-- A halted block makes no frame. -/
theorem frame_halted (hwf : cfg.wf = true) (hc : f.cause ≠ causeReserved) (hh : f.halted = true) (e : FrameEvent) :
    f.frame cfg e = .next f := by
  simp [FrameState.frame, hwf, hc, hh]

/-- The wire trace of the `k` frames that begin at a phase. -/
def framesTrace (cfg : Config) (φ : Byte) (k : Nat) : List Symbol :=
  (List.range k).flatMap fun j => frameTrace cfg (φ + BitVec.ofNat 8 j)

/-- The frame-level state after `k` frames of a running block whose transmits succeed. -/
def FrameState.sentFrames (f : FrameState) (cfg : Config) (k : Nat) : FrameState :=
  { f with phase := f.phase + BitVec.ofNat 8 k, trace := f.trace ++ framesTrace cfg f.phase k }

/-- The phase of a frame's successors, counted from the next phase. -/
theorem phase_add_succ (φ : Byte) (j : Nat) : φ + BitVec.ofNat 8 (j + 1) = φ + 1 + BitVec.ofNat 8 j := by
  rw [Nat.add_comm, BitVec.ofNat_add, BitVec.add_assoc]
  rfl

theorem framesTrace_succ (cfg : Config) (φ : Byte) (k : Nat) :
    framesTrace cfg φ (k + 1) = frameTrace cfg φ ++ framesTrace cfg (φ + 1) k := by
  have hfirst : φ + BitVec.ofNat 8 0 = φ := BitVec.add_zero φ
  rw [framesTrace, List.range_succ_eq_map, List.flatMap_cons, List.flatMap_map, hfirst]
  simp only [Nat.succ_eq_add_one, phase_add_succ, framesTrace]

theorem run_sent (hwf : cfg.wf = true) (hc : f.cause ≠ causeReserved) (hh : f.halted = false) (k : Nat) :
    FrameState.run cfg (List.replicate k .sent) f = .next (f.sentFrames cfg k) := by
  induction k generalizing f with
  | zero => simp [FrameState.run, FrameState.sentFrames, framesTrace]
  | succ k ih =>
    have hnext := ih (f := { f with phase := f.phase + 1, trace := f.trace ++ frameTrace cfg f.phase }) hc hh
    rw [List.replicate_succ, FrameState.run, frame_sent hwf hc hh]
    refine hnext.trans ?_
    simp only [FrameState.sentFrames, phase_add_succ, framesTrace_succ, List.append_assoc]

/-- What a failed transmit adds is the beginning of the frame (R219). -/
theorem failTrace_isPrefix (cfg : Config) (φ : Byte) (n : Nat) : failTrace cfg φ n <+: frameTrace cfg φ := by
  unfold failTrace
  split
  · exact List.nil_prefix
  · exact List.take_prefix _ _

theorem failTrace_timer (hs : cfg.strategy = .timer) (φ : Byte) (n : Nat) : failTrace cfg φ n = [] := by
  rw [failTrace, hs]

end Frames

/-- Settles O54: the frames one after the other, and 256 more bring the phase back. -/
theorem framePhases : Obligations.FramePhases := by
  intro cfg k hwf
  have hc : (FrameState.reset cfg true).cause ≠ causeReserved := by simp [FrameState.reset]
  have hsent : ((FrameState.reset cfg true).sentFrames cfg k).cause ≠ causeReserved := hc
  have hperiod : BitVec.ofNat 8 (k + 256) = BitVec.ofNat 8 k :=
    BitVec.eq_of_toNat_eq (by rw [BitVec.toNat_ofNat, BitVec.toNat_ofNat, Nat.add_mod_right])
  refine ⟨_, _, run_sent hwf hc rfl k, ?_, rfl, rfl, run_sent hwf hc rfl (k + 256),
    congrArg (cfg.phaseInit + ·) hperiod, fun n => ⟨_, _, frame_failed hwf hsent rfl n, rfl, rfl, rfl, rfl,
      failTrace_isPrefix _ _ _, fun hs => failTrace_timer hs _ _, fun e => frame_halted hwf (by simp) rfl e⟩⟩
  calc (cfg.phaseInit + BitVec.ofNat 8 k).toNat
      = (cfg.phaseInit.toNat + k % 256) % 256 := by rw [BitVec.toNat_add, BitVec.toNat_ofNat]
    _ = (cfg.phaseInit.toNat + k) % 256 := Nat.add_mod_mod _ _ _

/-! ### Ticks outside `TX` (spec/42_animation_loop.md R181 to R187, R191) -/

/-- Outside `TX`, with nothing for the engine to do, a tick is the controller's part of it. -/
theorem tickState_outsideTx {s : State} (hc : s.cst ≠ cstTx) (hq : s.cfg.strategy = .sm → s.EngineQuiet) :
    s.tickState = s.endTick s.ctlPart := by
  cases hs : s.cfg.strategy with
  | timer => exact tickState_timer hs
  | sm =>
    obtain ⟨hest, heshr, hebit, hesymt, -, hout⟩ := ctlPart_frame s
    obtain ⟨hdout, hfifo⟩ := hout hc
    have hjoint : s.joint s.ctlPart s = s.ctlPart := by
      rw [State.joint, hfifo, List.drop_length, List.append_nil, ← hfifo, ← hest, ← heshr, ← hebit, ← hesymt, ← hdout]
    rw [tickState_sm hs, engineTick_of_quiet (hq hs), hjoint]

/-- A state outside `TX` from which ticks go by: what `step` asks of it, and the engine with nothing to do. -/
structure State.Idles (s : State) : Prop where
  ready : s.Ready
  quiet : s.cfg.strategy = .sm → s.EngineQuiet
  outside : s.cst ≠ cstTx

theorem step_idles {s : State} (h : s.Idles) (hr : s.pins.rst = false) : step s = .next (s.endTick s.ctlPart) := by
  rw [step_tick h.ready hr, tickState_outsideTx h.outside h.quiet]

/-! ### The wait (spec/42_animation_loop.md R186) -/

/-- The state `k` ticks into the wait that begins in `s`. -/
def State.waiting (s : State) (k : Nat) : State :=
  { s.after (List.replicate k s.dout) with ftmr := s.ftmr - BitVec.ofNat 32 k }

/-- The state the wait that begins in `s` leads to after its `n` ticks. -/
def State.waited (s : State) (n : Nat) : State :=
  { s.after (List.replicate n s.dout) with ftmr := 1, cst := cstRead }

section Wait

variable {s : State} {k : Nat}

theorem waiting_zero (s : State) : s.waiting 0 = s := by
  have hftmr : s.ftmr - BitVec.ofNat 32 0 = s.ftmr := BitVec.sub_zero _
  rw [State.waiting, List.replicate_zero, after_nil, hftmr]

theorem waiting_ftmr (hk : k ≤ s.ftmr.toNat) : (s.waiting k).ftmr.toNat = s.ftmr.toNat - k := by
  have hlt := s.ftmr.isLt
  have hnat : (BitVec.ofNat 32 k).toNat = k := by rw [BitVec.toNat_ofNat, Nat.mod_eq_of_lt (by omega)]
  show (s.ftmr - BitVec.ofNat 32 k).toNat = _
  rw [BitVec.toNat_sub_of_le (BitVec.le_def.mpr (by omega)), hnat]

theorem idles_waiting (h : s.Idles) : (s.waiting k).Idles := ⟨h.ready, h.quiet, h.outside⟩

theorem waiting_rst (hr : s.NoResetFor (k + 1)) : (s.waiting k).pins.rst = false := by
  have hpins : (s.waiting k).pins = s.pinsAt k := congrArg s.pinsAt List.length_replicate
  rw [hpins]
  exact hr k (Nat.lt_succ_self k)

/-- One more tick with the line held. -/
theorem after_replicate_succ (s : State) (k : Nat) (d : Bool) :
    (s.after (List.replicate k d)).after [d] = s.after (List.replicate (k + 1) d) := by
  rw [after_append, List.replicate_succ']

/-- A tick of the wait before its last counts down. -/
theorem endTick_waiting (hc : s.cst = cstWait) (hk : k + 1 < s.ftmr.toNat) :
    (s.waiting k).endTick (s.waiting k).ctlPart = s.waiting (k + 1) := by
  have hftmr : s.ftmr - BitVec.ofNat 32 k - 1 = s.ftmr - BitVec.ofNat 32 (k + 1) := by
    rw [BitVec.ofNat_add, BitVec.sub_sub]
    rfl
  have hmore : 1 < (s.waiting k).ftmr.toNat := by rw [waiting_ftmr (by omega)]; omega
  rw [ctlPart_wait_before (s := s.waiting k) hc hmore, State.waiting, State.waiting, ← hftmr, ← after_replicate_succ]
  rfl

/-- The last tick of the wait goes to `READ`. -/
theorem endTick_waiting_last (hc : s.cst = cstWait) (hk : k + 1 = s.ftmr.toNat) :
    (s.waiting k).endTick (s.waiting k).ctlPart = s.waited (k + 1) := by
  have hftmr : (s.waiting k).ftmr = 1 :=
    BitVec.eq_of_toNat_eq (by rw [waiting_ftmr (by omega), ← hk, Nat.add_sub_cancel_left]; rfl)
  have hlast : (s.waiting k).ftmr.toNat ≤ 1 := by rw [hftmr]; exact le_rfl
  rw [ctlPart_wait_last (s := s.waiting k) hc hlast, State.waited, ← hftmr, ← after_replicate_succ]
  rfl

/-- The wait up to its last tick. -/
theorem waiting_run (h : s.Idles) (hc : s.cst = cstWait) (hk : k < s.ftmr.toNat) (hr : s.NoResetFor k) :
    Host.Core.run core k s = .next (s.waiting k) := by
  induction k with
  | zero => rw [waiting_zero, run_zero]
  | succ k ih =>
    have hstep := step_idles (idles_waiting (k := k) h) (waiting_rst hr)
    rw [endTick_waiting hc hk] at hstep
    rw [run_add k 1 (ih (by omega) (noReset_weaken hr (by omega))), run_succ 0 hstep, run_zero]

/-- The whole wait. -/
theorem waited_run (h : s.Idles) (hc : s.cst = cstWait) (hn : 1 ≤ s.ftmr.toNat) (hr : s.NoResetFor s.ftmr.toNat) :
    Host.Core.run core s.ftmr.toNat s = .next (s.waited s.ftmr.toNat) := by
  obtain ⟨k, hk⟩ := Nat.exists_eq_add_of_le' hn
  rw [hk] at hr ⊢
  have hstep := step_idles (idles_waiting (k := k) h) (waiting_rst hr)
  rw [endTick_waiting_last hc hk.symm] at hstep
  rw [run_add k 1 (waiting_run h hc (by omega) (noReset_weaken hr (by omega))), run_succ 0 hstep, run_zero]

end Wait

/-- Settles O51: the ticks of the wait one after the other, in which no agent writes the line. -/
theorem waitLasts : Obligations.WaitLasts := by
  intro s hwf ⟨hcst, hest, hcause⟩ hc hn hq hd hr
  have hidles : s.Idles := ⟨⟨hwf, hcst, hcause, fun _ => hest⟩, fun _ => hq, by simp [hc]⟩
  refine ⟨fun k hk => ⟨_, waiting_run hidles hc hk (noReset_weaken hr hk.le), hc⟩, _, waited_run hidles hc hn hr, rfl,
    hd, rfl, ?_⟩
  rw [← hd]
  rfl

/-! ### The wire of a frame (spec/41_bit_serializer.md R155) -/

theorem pixelTrace_wave (cfg : Config) (w : Word24) : (pixelTrace w).flatMap (Symbol.wave cfg) = cfg.pixelWave w := by
  rw [pixelTrace, List.flatMap_map, Config.pixelWave]
  exact List.flatMap_congr fun b _ => by cases b <;> rfl

theorem transmitTrace_wave (cfg : Config) (colors : List Color) (sc : Byte) :
    (transmitTrace cfg.chorder colors sc).flatMap (Symbol.wave cfg) =
      cfg.frameWave (colors.map fun c => wordOf cfg.chorder c sc) := by
  simp [transmitTrace, Config.frameWave, List.flatMap_assoc, List.flatMap_map, pixelTrace_wave, Symbol.wave]

/-- The waveform of a frame of the frame-level semantics is that of the frame's sequence (R117). -/
theorem frameTrace_wave {s : State} {φ : Byte} (hcol : s.col = sequencer s.cfg φ) :
    (frameTrace s.cfg φ).flatMap (Symbol.wave s.cfg) = s.cfg.frameWave s.frameFeed.words := by
  have hwords : s.frameFeed.words = List.replicate s.cfg.npix (wordOf s.cfg.chorder s.col s.cfg.scale) := by
    simp [Feed.words, State.frameFeed]
  rw [frameTrace, transmitTrace_wave, List.map_replicate, hwords, hcol]

theorem frameFeed_words_length (s : State) : s.frameFeed.words.length = s.cfg.npix := by
  simp [Feed.words]

/-! ### One period of the loop (spec/42_animation_loop.md R191) -/

/-- The state after the tick in `READ`: the phase latched. -/
def State.seqEntry (s : State) : State := { s.after [s.dout] with phl := s.phase, cst := cstSeq }

/-- The state after the ticks in `READ` and `SEQ`: the transmit's start, with the colour of the phase. -/
def State.txEntry (s : State) : State :=
  { s.after [s.dout, s.dout] with phl := s.phase, col := sequencer s.cfg s.phase, txs := txsStart, cst := cstTx }

@[simp] theorem State.txEntry_cfg (s : State) : s.txEntry.cfg = s.cfg := rfl

@[simp] theorem State.txEntry_phase (s : State) : s.txEntry.phase = s.phase := rfl

@[simp] theorem timerDone_phase (s : State) (l : List Bool) (w : Word24) (b : BitVec 5) (p : BitVec 4) (ts : Word32) :
    (s.timerDone l w b p ts).phase = s.phase := rfl

@[simp] theorem smAt_phase (s : State) (l : List Bool) (c : SmCtl) (e : SmEng) (q : List Word24) :
    (s.smAt l c e q).phase = s.phase := rfl

/-- The state after the tick in `ADV`: the wait's start, at the next phase. -/
def State.waitEntry (s : State) : State :=
  { s.after [s.dout] with phase := s.phase + 1, ftmr := BitVec.ofNat 32 s.cfg.frameTicks, cst := cstWait }

section Period

variable {s t : State}

/-- A tick outside `TX` that leads to the state `u` is a step to it. -/
theorem run_one_idles {u : State} (h : s.Idles) (hr : s.pins.rst = false) (hu : s.endTick s.ctlPart = u) :
    Host.Core.run core 1 s = .next u := by
  rw [run_succ 0 (step_idles h hr), run_zero, hu]

/-- Steps 1 and 2 of the loop. -/
theorem txEntry_run (h : s.Idles) (hc : s.cst = cstRead) (hr : s.NoResetFor 2) :
    Host.Core.run core 2 s = .next s.txEntry := by
  obtain ⟨hwf, -, hcodes⟩ := h.ready
  have hread : s.endTick s.ctlPart = s.seqEntry := by rw [ctlPart_read hc]; rfl
  have hseq : s.seqEntry.endTick s.seqEntry.ctlPart = s.txEntry := by
    rw [ctlPart_seq (s := s.seqEntry) rfl, State.txEntry, ← List.singleton_append, ← after_append]
    rfl
  have hidles : s.seqEntry.Idles := ⟨⟨hwf, by simp [State.seqEntry], hcodes⟩, h.quiet, by simp [State.seqEntry]⟩
  have hrst : s.seqEntry.NoResetFor 1 := noReset_after (l := [s.dout]) hr
  rw [run_add 1 1 (run_one_idles h (noReset_now hr (by omega)) hread)]
  exact run_one_idles hidles (noReset_now hrst (by omega)) hseq

/-- Steps 4 and 5 of the loop: the tick in `ADV` and the `FRAME_TICKS` ticks of the wait, the line held. -/
theorem advance_run (h : s.Idles) (hc : s.cst = cstAdv) (hr : s.NoResetFor (1 + s.cfg.frameTicks)) :
    ∃ u, Host.Core.run core (1 + s.cfg.frameTicks) s = .next u ∧ u.cst = cstRead ∧ u.dout = s.dout ∧
      u.phase = s.phase + 1 ∧ u.fifo = s.fifo ∧ u.est = s.est ∧
      u.wire = s.wire ++ List.replicate (s.cfg.frameTicks + 1) s.dout := by
  obtain ⟨hwf, -, hcodes⟩ := h.ready
  have hadv : s.endTick s.ctlPart = s.waitEntry := by rw [ctlPart_adv hc]; rfl
  have hidles : s.waitEntry.Idles := ⟨⟨hwf, by simp [State.waitEntry], hcodes⟩, h.quiet, by simp [State.waitEntry]⟩
  have hftmr : s.waitEntry.ftmr.toNat = s.cfg.frameTicks := toNat_frameTicks hwf
  have hrst : s.waitEntry.NoResetFor s.cfg.frameTicks := noReset_after (l := [s.dout]) hr
  obtain ⟨-, -, hmin, -⟩ := Config.wf_interval hwf
  have hwait := waited_run hidles rfl (by rw [hftmr]; exact hmin) (by rw [hftmr]; exact hrst)
  rw [hftmr] at hwait
  have hrun := run_add 1 s.cfg.frameTicks (run_one_idles h (noReset_now hr (by omega)) hadv)
  refine ⟨_, hrun.trans hwait, rfl, rfl, rfl, rfl, rfl, ?_⟩
  rw [List.replicate_succ, ← List.singleton_append, ← List.append_assoc]
  rfl

/-- A period from `READ`, given its transmit, which leads to `t`. -/
theorem period_run {N : Nat} (h : s.Idles) (hc : s.cst = cstRead) (hr : s.NoResetFor 2)
    (hrun : TxRun s.txEntry.frameFeed N s.txEntry t) (ht : t.Idles) (hadv : t.cst = cstAdv)
    (hrt : t.NoResetFor (1 + t.cfg.frameTicks)) :
    ∃ u, Host.Core.run core (2 + (N + (1 + t.cfg.frameTicks))) s = .next u ∧ u.cst = cstRead ∧ u.dout = t.dout ∧
      u.phase = t.phase + 1 ∧ u.fifo = t.fifo ∧ u.est = t.est ∧
      u.wire = t.wire ++ List.replicate (t.cfg.frameTicks + 1) t.dout := by
  obtain ⟨hwf, -, hcause, hest⟩ := h.ready
  rw [run_add 2 _ (txEntry_run h hc hr), run_add N _ (hrun.run rfl hwf hcause hest)]
  exact advance_run ht hadv hrt

theorem txEntry_noReset {n : Nat} (hr : s.NoResetFor (2 + n)) : s.txEntry.NoResetFor n :=
  noReset_after (l := [s.dout, s.dout]) hr

theorem txEntry_channel {n : Nat} (h : s.ChannelFor (2 + n)) : s.txEntry.ChannelFor n :=
  channel_after (l := [s.dout, s.dout]) h

theorem channel_weaken {m n : Nat} (h : s.ChannelFor n) (hm : m ≤ n) : s.ChannelFor m := fun k hk => h k (by omega)

/-- A Timer-Paced transmit that has succeeded leaves the engine nothing to do: there is none. -/
theorem idles_timerDone (hs : s.cfg.strategy = .timer) (hwf : s.cfg.wf = true) (hh : s.haltCause ≠ causeReserved)
    (l : List Bool) (w : Word24) (b : BitVec 5) (p : BitVec 4) (ts : Word32) : (s.timerDone l w b p ts).Idles := by
  have hsm : (s.timerDone l w b p ts).cfg.strategy ≠ .sm := by simp [State.timerDone, hs]
  exact ⟨⟨hwf, by simp [State.timerDone], hh, fun h => absurd h hsm⟩, fun h => absurd h hsm, by simp [State.timerDone]⟩

/-- A State-Machine transmit that has succeeded leaves the engine nothing to do. -/
theorem idles_smAt {c : SmCtl} {e : SmEng} (hwf : s.cfg.wf = true) (hh : s.haltCause ≠ causeReserved)
    (hc : c.cst = cstAdv) (he : e.est = estIdle) (l : List Bool) : (s.smAt l c e []).Idles :=
  ⟨⟨hwf, by simp [State.smAt, hc], hh, fun _ => by simp [State.smAt, he]⟩, fun _ => ⟨rfl, he⟩,
    by simp [State.smAt, hc]⟩

/-- The period in `TIMER`. -/
theorem period_timer (hs : s.cfg.strategy = .timer) (h : s.Idles) (hc : s.cst = cstRead) (hd : s.dout = false)
    (hr : s.NoResetFor (2 + (1 + 24 * s.cfg.npix * s.cfg.total + s.cfg.treset + (1 + s.cfg.frameTicks))))
    (hchan : s.ChannelFor 3) :
    ∃ t, Host.Core.run core
        (2 + (1 + 24 * s.cfg.npix * s.cfg.total + s.cfg.treset + (1 + s.cfg.frameTicks))) s = .next t ∧
      t.cst = cstRead ∧ t.dout = false ∧ t.phase = s.phase + 1 ∧
      t.wire = s.wire ++ List.replicate 3 false ++ s.cfg.frameWave s.txEntry.frameFeed.words ++
        List.replicate (s.cfg.frameTicks + 1) false := by
  obtain ⟨hwf, -, hcause, -⟩ := h.ready
  obtain ⟨hmin, hmax⟩ := Config.wf_pixels hwf
  have hrtx := txEntry_noReset hr
  obtain ⟨w, b, p, ts, hrun⟩ := timer_transmit_run s.txEntry.frameFeed s.txEntry hs hwf rfl rfl
    (channel_now (txEntry_channel (n := 1) hchan) (by omega)) hmin hmax (noReset_weaken hrtx (Nat.le_add_right _ _))
  have hlen : (s.txEntry.dout :: s.txEntry.cfg.frameWave s.txEntry.frameFeed.words).length =
      1 + 24 * s.cfg.npix * s.cfg.total + s.cfg.treset := by
    rw [List.length_cons, frameWave_length (by exact hwf), frameFeed_words_length]
    show 24 * s.cfg.npix * s.cfg.total + s.cfg.treset + 1 = _
    omega
  have hrt := noReset_after (s := s.txEntry) (n := 1 + s.cfg.frameTicks) (hlen.symm ▸ hrtx)
  have hidles := idles_timerDone (s := s.txEntry) hs hwf hcause
  obtain ⟨u, hperiod, hcst, hdout, hphase, -, -, hwire⟩ :=
    period_run h hc (noReset_weaken hr (by omega)) hrun (hidles _ w b p ts) rfl hrt
  refine ⟨u, hperiod, hcst, hdout, by simp [hphase], ?_⟩
  rw [hwire]
  simp [State.timerDone, State.after, State.txEntry, hd]

/-- The low tick before the latch, the latch and the low ticks after it are one low run. -/
theorem latchWave_between_low (cfg : Config) (n : Nat) :
    false :: (cfg.latchWave ++ List.replicate (n + 1) false) = cfg.latchWave ++ List.replicate (n + 2) false := by
  rw [Config.latchWave, List.replicate_append_replicate, ← List.replicate_succ, List.replicate_append_replicate]
  rfl

/-- The period in `SM`. -/
theorem period_sm (hs : s.cfg.strategy = .sm) (h : s.Idles) (hc : s.cst = cstRead) (hd : s.dout = false)
    (hbound : 24 * s.cfg.total ≤ s.cfg.blockBound)
    (hr : s.NoResetFor (2 + (4 + 24 * s.cfg.npix * s.cfg.total + s.cfg.treset + (1 + s.cfg.frameTicks))))
    (hchan : s.ChannelFor (2 + (4 + 24 * s.cfg.npix * s.cfg.total + s.cfg.treset))) :
    ∃ t, Host.Core.run core
        (2 + (4 + 24 * s.cfg.npix * s.cfg.total + s.cfg.treset + (1 + s.cfg.frameTicks))) s = .next t ∧
      t.cst = cstRead ∧ t.dout = false ∧ t.EngineQuiet ∧ t.phase = s.phase + 1 ∧
      t.wire = s.wire ++ List.replicate 5 false ++ s.cfg.frameWave s.txEntry.frameFeed.words ++
        List.replicate (s.cfg.frameTicks + 2) false := by
  obtain ⟨hwf, -, hcause, -⟩ := h.ready
  obtain ⟨hfifo, hidle⟩ := h.quiet hs
  obtain ⟨hmin, hmax⟩ := Config.wf_pixels hwf
  have hrtx := txEntry_noReset hr
  obtain ⟨c, e, hrun, hcst, -, hest, hlow⟩ := sm_transmit_run (s := s.txEntry) (f := s.txEntry.frameFeed)
    ⟨hwf, hs, hmax, hbound, noReset_weaken hrtx (Nat.le_add_right _ _), txEntry_channel hchan⟩ hmin rfl rfl hidle hfifo
  have hlen : ([s.txEntry.dout, s.txEntry.dout, s.txEntry.dout] ++
      s.txEntry.frameFeed.words.flatMap s.txEntry.cfg.pixelWave ++ [false] ++ s.txEntry.cfg.latchWave).length =
      4 + 24 * s.cfg.npix * s.cfg.total + s.cfg.treset := by
    simp only [List.length_append, pixelWaves_length (cfg := s.txEntry.cfg) hwf, frameFeed_words_length,
      Config.latchWave, List.length_replicate, List.length_cons, List.length_nil]
    show 0 + 1 + 1 + 1 + 24 * s.cfg.npix * s.cfg.total + (0 + 1) + s.cfg.treset = _
    omega
  have hrt := noReset_after (s := s.txEntry) (n := 1 + s.cfg.frameTicks) (hlen.symm ▸ hrtx)
  have hidles := idles_smAt (s := s.txEntry) hwf hcause hcst hest
  obtain ⟨u, hperiod, hread, hdout, hphase, hqueue, hengine, hwire⟩ :=
    period_run h hc (noReset_weaken hr (by omega)) hrun (hidles _) hcst hrt
  refine ⟨u, hperiod, hread, hdout.trans hlow, ⟨hqueue, hengine.trans hest⟩, by simp [hphase], ?_⟩
  rw [hwire]
  simp [State.smAt, State.after, State.txEntry, hd, hlow, Config.frameWave, latchWave_between_low]

end Period

/-- Settles O53: the two ticks before the transmit, the transmit of the frame's sequence, and the ticks up to `READ`. -/
theorem framePeriod : Obligations.FramePeriod := by
  intro s hwf ⟨hcst, hest, hcause⟩ hc hd
  have hready : s.Ready := ⟨hwf, hcst, hcause, fun _ => hest⟩
  have hframe := frame_sent (f := ⟨s.phase, false, causeNone, []⟩) hwf (by simp) rfl
  have hwave : (frameTrace s.cfg s.phase).flatMap (Symbol.wave s.cfg) = s.cfg.frameWave s.txEntry.frameFeed.words :=
    frameTrace_wave (s := s.txEntry) rfl
  refine ⟨fun hs hr hchan => ?_, fun hs hq hbound hr hchan => ?_⟩
  · have hN : 24 * s.cfg.npix * s.cfg.total + s.cfg.treset + s.cfg.frameTicks + 4 =
        2 + (1 + 24 * s.cfg.npix * s.cfg.total + s.cfg.treset + (1 + s.cfg.frameTicks)) := by omega
    rw [hN] at hr hchan ⊢
    obtain ⟨t, hrun, ht, hdout, hphase, hwire⟩ := period_timer hs ⟨hready, by simp [hs], by simp [hc]⟩ hc hd hr
      (channel_weaken hchan (by omega))
    exact ⟨t, _, hframe, hrun, ht, hdout, hphase, by rw [hwire, ← hwave]; rfl⟩
  · have hN : 24 * s.cfg.npix * s.cfg.total + s.cfg.treset + s.cfg.frameTicks + 7 =
        2 + (4 + 24 * s.cfg.npix * s.cfg.total + s.cfg.treset + (1 + s.cfg.frameTicks)) := by omega
    rw [hN] at hr hchan ⊢
    obtain ⟨t, hrun, ht, hdout, hquiet, hphase, hwire⟩ := period_sm hs ⟨hready, fun _ => hq, by simp [hc]⟩ hc hd hbound
      hr (channel_weaken hchan (by omega))
    exact ⟨t, _, hframe, hrun, ht, hdout, hquiet, hphase, by rw [hwire, ← hwave]; rfl⟩

end Sys2Proof.Machine

namespace Sys2Proof.Machine

/-! ### The failures of a running block (spec/60_exceptions.md R201, R208) -/

section Failures

variable {s : State}

/-- A transmit fails in this tick (spec/41_bit_serializer.md R152): at its start with the channel unavailable, or in `SM`
blocked past the bound. -/
def State.TxFails (s : State) : Prop :=
  (s.txs = txsStart ∧ s.pins.chanAvail = false) ∨
  (s.cfg.strategy = .sm ∧ s.cfg.blockBound ≤ s.blk.toNat ∧
    ((s.txs = txsSPush ∧ s.cfg.qdepth ≤ s.fifo.length) ∨
      (s.txs = txsSDrain ∧ ¬ s.EngineQuiet ∧ s.pins.chanAvail = false)))

/-- A running block fails in this tick: the check of the initialization, or the transmit. -/
def State.Fails (s : State) : Prop :=
  (s.cst = cstInit ∧ s.pins.initOk = false) ∨ (s.cst = cstTx ∧ s.TxFails)

/-- The cause a failure records (R202), by where the controller is. -/
def State.failCause (s : State) : BitVec 2 := if s.cst = cstInit then causeInitFail else causeTxFail

theorem failCause_init_or_tx (s : State) : s.failCause = causeInitFail ∨ s.failCause = causeTxFail :=
  ite_eq_or_eq _ _ _

theorem txTick_of_txFails (f : Feed) (h : s.TxFails) : s.txTick f = s.raiseHalt causeTxFail := by
  rcases h with ⟨hx, hp⟩ | ⟨hs, hbound, ⟨hx, hfull⟩ | ⟨hx, hquiet, hp⟩⟩
  · cases hs : s.cfg.strategy with
    | timer => simp [State.txTick, hs, State.timerTick, hx, timerStart_unavailable hp]
    | sm => simp [State.txTick, hs, State.smTick, hx, smStart_unavailable hp]
  · simp [State.txTick, hs, State.smTick, hx, smPush_full hfull, blocked_fails hbound]
  · simp [State.txTick, hs, State.smTick, hx, smDrain_unavailable hquiet hp, blocked_fails hbound]

/-- A blocked tick that halts is past the bound. -/
theorem bound_le_of_blocked_halts (hc : s.cst ≠ cstHalt) (h : s.blocked.cst = cstHalt) :
    s.cfg.blockBound ≤ s.blk.toNat := by
  rcases blocked_cases s with ⟨hbound, -⟩ | ⟨-, e⟩
  · exact hbound
  · rw [e] at h
    exact absurd h hc

theorem txFails_of_txTick_halts (f : Feed) (hc : s.cst = cstTx) (h : (s.txTick f).cst = cstHalt) : s.TxFails := by
  have hrun : s.cst ≠ cstHalt := by simp [hc]
  cases hs : s.cfg.strategy with
  | timer =>
    rw [State.txTick, hs] at h
    rcases timerTick_cases s f with ⟨hx, hp, -⟩ | ⟨-, -, e⟩ | ⟨-, -, e⟩ | ⟨-, -, e⟩ | ⟨-, -, e⟩ | ⟨-, -, -, e⟩ |
      ⟨-, -, -, -, e⟩ | ⟨-, -, -, -, e⟩ | ⟨-, -, e⟩ | ⟨-, -, e⟩
    case inl => exact .inl ⟨hx, hp⟩
    all_goals simp [e, hc] at h
  | sm =>
    rw [State.txTick, hs] at h
    rcases smTick_cases s f with ⟨hx, hp, -⟩ | ⟨-, -, e⟩ | ⟨-, -, -, e⟩ | ⟨-, -, -, e⟩ | ⟨hx, hfull, e⟩ |
      ⟨-, -, -, e⟩ | ⟨-, -, -, e⟩ | ⟨hx, hquiet, hp, e⟩ | ⟨-, -, e⟩ | ⟨-, -, e⟩
    case inl => exact .inl ⟨hx, hp⟩
    case inr.inr.inr.inr.inl =>
      exact .inr ⟨hs, bound_le_of_blocked_halts hrun (e ▸ h), .inl ⟨hx, hfull⟩⟩
    case inr.inr.inr.inr.inr.inr.inr.inl =>
      exact .inr ⟨hs, bound_le_of_blocked_halts hrun (e ▸ h), .inr ⟨hx, hquiet, hp⟩⟩
    all_goals simp [e, hc] at h

/-- A failure raises `Halt` with its cause and does nothing else (R208). -/
theorem ctlPart_of_fails (h : s.Fails) : s.ctlPart = s.raiseHalt s.failCause := by
  rcases h with ⟨hc, hi⟩ | ⟨hc, hfails⟩
  · rw [ctlPart_init_fails hc hi, State.failCause, if_pos hc]
  · rw [ctlPart_tx hc, txTick_of_txFails _ hfails, State.failCause, if_neg (by simp [hc])]

/-- The controller of a running block goes to `HALT` by a failure only. -/
theorem fails_of_ctlPart_halts (hc : s.cst ≠ cstHalt) (h : s.ctlPart.cst = cstHalt) : s.Fails := by
  rcases ctlPart_cases s with ⟨-, -, e⟩ | ⟨h0, hi, -⟩ | ⟨-, e⟩ | ⟨-, e⟩ | ⟨h0, e⟩ | ⟨-, e⟩ | ⟨-, -, e⟩ | ⟨-, -, e⟩ |
    ⟨-, e⟩
  case inr.inl => exact .inl ⟨h0, hi⟩
  case inr.inr.inr.inr.inl => exact .inr ⟨h0, txFails_of_txTick_halts _ h0 (e ▸ h)⟩
  all_goals simp [e, hc] at h

theorem ctlPart_halts_iff (hc : s.cst ≠ cstHalt) : s.ctlPart.cst = cstHalt ↔ s.Fails :=
  ⟨fails_of_ctlPart_halts hc, fun h => by rw [ctlPart_of_fails h]; rfl⟩

end Failures

/-- Settles O19: a step into `HALT` is a failure, whose controller part is `raise Halt` alone. -/
theorem haltEntry : Obligations.HaltEntry := by
  intro s t hr hc h ht
  rcases step_cases h with ⟨-, hr', -⟩ | ⟨-, -, rfl⟩
  · simp [hr] at hr'
  have hpart : s.ctlPart = s.raiseHalt s.failCause :=
    ctlPart_of_fails (fails_of_ctlPart_halts hc (by rwa [tickState_cst] at ht))
  have hline : s.cfg.strategy = .timer → s.tickState.dout = s.dout ∧ s.tickState.fifo = s.fifo := fun hs => by
    rw [tickState_timer hs, hpart]
    exact ⟨rfl, rfl⟩
  simpa [hpart] using And.intro (failCause_init_or_tx s) hline

/-- Settles O20: the controller of a running block goes to `HALT` exactly in a failure. -/
theorem haltExactlyWhen : Obligations.HaltExactlyWhen := by
  intro s t hr hc h
  rcases step_cases h with ⟨-, hr', -⟩ | ⟨-, -, rfl⟩
  · simp [hr] at hr'
  rw [tickState_cst, tickState_haltCause]
  refine ⟨?_, fun ht => ?_⟩
  · rw [ctlPart_halts_iff hc, State.Fails, State.TxFails, and_or_left]
  · rw [ctlPart_of_fails (fails_of_ctlPart_halts hc ht)]
    rfl

/-! ### A halted block (spec/60_exceptions.md R210, R219) -/

/-- A halted block with nothing for the engine to do lets the ticks go by and holds the line. -/
theorem halted_run {s : State} {n : Nat} (h : s.Idles) (hc : s.cst = cstHalt) (hr : s.NoResetFor n) :
    Host.Core.run core n s = .next (s.after (List.replicate n s.dout)) := by
  induction n with
  | zero => rw [List.replicate_zero, after_nil, run_zero]
  | succ n ih =>
    have hidles : (s.after (List.replicate n s.dout)).Idles := ⟨h.ready, h.quiet, h.outside⟩
    have hrst : (s.after (List.replicate n s.dout)).NoResetFor 1 := noReset_after (by rwa [List.length_replicate])
    rw [run_add n 1 (ih (noReset_weaken hr (Nat.le_succ n))), ← after_replicate_succ]
    refine run_one_idles hidles (noReset_now hrst Nat.one_pos) ?_
    rw [ctlPart_halt (s := s.after _) hc, endTick_self]
    rfl

/-- The first tick of a failed initialization, with the engine quiet, raises `Halt`. -/
theorem initFail_run {s : State} (h : s.Idles) (hc : s.cst = cstInit) (hi : s.pins.initOk = false)
    (hr : s.pins.rst = false) : Host.Core.run core 1 s = .next ((s.after [s.dout]).raiseHalt causeInitFail) :=
  run_one_idles h hr (by rw [ctlPart_init_fails hc hi]; rfl)

theorem idles_reset {cfg : Config} (hwf : cfg.wf = true) (tcnt : Word32) (pins : Pins) (script : List Pins) :
    ({ State.resetWith cfg tcnt pins with script := script } : State).Idles :=
  ⟨⟨hwf, by simp, by simp, fun _ => by simp⟩, fun _ => ⟨rfl, rfl⟩, by simp⟩

theorem idles_initFailed {s : State} (h : s.Idles) : ((s.after [s.dout]).raiseHalt causeInitFail).Idles := by
  obtain ⟨hwf, -, -, hest⟩ := h.ready
  exact ⟨⟨hwf, by simp, by simp, hest⟩, h.quiet, by simp⟩

/-- Settles O21: the check fails in the first tick, and the halted block holds the low line it was reset to. -/
theorem initFailDark : Obligations.InitFailDark := by
  intro cfg tcnt pins script n hwf hi hr
  rw [Nat.add_comm] at hr ⊢
  have hidles := idles_reset hwf tcnt pins script
  have hfail := initFail_run hidles rfl hi (noReset_now hr (by omega))
  have hdark := halted_run (n := n) (idles_initFailed hidles) rfl (noReset_after (l := [false]) hr)
  exact ⟨_, (run_add 1 n hfail).trans hdark, rfl, rfl, rfl, rfl, List.replicate_append_replicate (n := 1)⟩

end Sys2Proof.Machine

namespace Sys2Proof.Machine

/-! ### The counters over one tick (spec/70_reset_and_hazards.md R240, spec/10_state.md R26) -/

/-- The controller's side of the ranges: its counters, and the pixel index inside the frame. -/
structure State.CtlInRange (s : State) : Prop where
  ftmr : s.ftmr.toNat ≤ s.cfg.frameTicks
  lcnt : s.lcnt.toNat < s.cfg.treset
  blk : s.blk.toNat ≤ s.cfg.blockBound
  bitcnt : s.bitcnt.toNat ≤ 24
  pix : s.pix.toNat ≤ 11
  inFrame : s.PixInFrame

/-- The bit engine's side of the ranges. -/
structure SmEng.InRange (cfg : Config) (e : SmEng) : Prop where
  esymt : e.esymt.toNat < cfg.total
  high : e.est = estHigh → e.esymt.toNat < cfg.hiTicks (e.eshr.getLsbD 23)
  ebit : e.ebit.toNat ≤ 24

/-- The ranges, each given to the agent that writes its register. -/
theorem inRange_iff (s : State) : s.CountersInRange ∧ s.PixInFrame ↔ s.CtlInRange ∧ s.eng.InRange s.cfg :=
  ⟨fun ⟨⟨hf, hl, hy, hh, hb, hc, he, hp⟩, hin⟩ => ⟨⟨hf, hl, hb, hc, hp, hin⟩, ⟨hy, hh, he⟩⟩,
    fun ⟨⟨hf, hl, hb, hc, hp, hin⟩, ⟨hy, hh, he⟩⟩ => ⟨⟨hf, hl, hy, hh, hb, hc, he, hp⟩, hin⟩⟩

section Ranges

variable {s : State}

/-! #### The bit engine -/

/-- At the start of a symbol the index is 0, and every symbol has a high tick (R132, R133). -/
theorem engineStart_inRange (hwf : s.cfg.wf = true) (hb : s.ebit.toNat ≤ 24) : s.engineStart.eng.InRange s.cfg := by
  obtain ⟨hpos, hlt⟩ := Config.hiTicks_bounds hwf (s.eshr.getLsbD 23)
  exact ⟨Nat.zero_lt_of_lt hlt, fun _ => hpos, hb⟩

/-- A word is loaded with its 24 bits to send. -/
theorem engineLoad_inRange (hwf : s.cfg.wf = true) (w : Word24) (rest : List Word24) :
    (s.engineLoad w rest).eng.InRange s.cfg :=
  engineStart_inRange (s := { s with fifo := rest, eshr := w, ebit := 24 }) hwf le_rfl

/-- The engine's part of a tick: the index counts inside the symbol, and a symbol's high time is within `TOTAL`. -/
theorem engineTick_inRange (hwf : s.cfg.wf = true) (h : s.eng.InRange s.cfg) : s.engineTick.eng.InRange s.cfg := by
  have hhi : s.hiEngine < s.cfg.total := (Config.hiTicks_bounds hwf (s.eshr.getLsbD 23)).2
  have hsucc : (s.esymt + 1).toNat ≤ s.esymt.toNat + 1 := by bv_omega
  have hebit : s.ebit.toNat ≤ 24 := h.ebit
  rcases engineTick_cases s with ⟨-, e⟩ | ⟨-, -, e⟩ | ⟨-, -, w, rest, -, e⟩ | ⟨-, he, -, e⟩ | ⟨-, -, hmore, e⟩ |
    ⟨-, he, hmore, e⟩ | ⟨-, -, -, hb, e⟩ | ⟨-, -, -, -, -, e⟩ | ⟨-, -, -, -, w, rest, -, e⟩ | ⟨-, e⟩ <;> rw [e]
  case inl | inr.inl | inr.inr.inr.inr.inr.inr.inr.inr.inr => exact h
  case inr.inr.inl | inr.inr.inr.inr.inr.inr.inr.inr.inl => exact engineLoad_inRange hwf w rest
  · have hin : s.esymt.toNat < s.hiEngine := h.high he
    exact { h with esymt := hsucc.trans_lt (by omega), high := fun hx => by simp [State.eng] at hx }
  · exact { h with esymt := hsucc.trans_lt (by omega), high := fun _ => hsucc.trans_lt hmore }
  · exact { h with esymt := hsucc.trans_lt hmore, high := fun hx => by simp [State.eng, he] at hx }
  · exact engineStart_inRange (s := { s with eshr := s.eshr <<< 1, ebit := s.ebit - 1 }) hwf (by bv_omega)
  · exact { h with high := fun hx => by simp [State.eng] at hx }

/-- A tick keeps the engine's ranges; in `TIMER` nothing writes its registers. -/
theorem eng_tickState_inRange (hwf : s.cfg.wf = true) (h : s.eng.InRange s.cfg) :
    s.tickState.eng.InRange s.tickState.cfg := by
  rw [tickState_cfg]
  cases hs : s.cfg.strategy with
  | timer =>
    obtain ⟨hest, heshr, hebit, hesymt, -⟩ := ctlPart_frame s
    have heng : s.tickState.eng = { s.eng with dout := s.ctlPart.dout } := by
      rw [tickState_timer hs]
      simp [State.eng, hest, heshr, hebit, hesymt]
    rw [heng]
    exact { h with }
  | sm =>
    rw [eng_tickState hs]
    exact engineTick_inRange hwf h

/-! #### The controller -/

/-- Outside `TX` the pixel index is in no frame (R26). -/
theorem pixInFrame_outsideTx (hc : s.cst ≠ cstTx) : s.PixInFrame := fun h => absurd h hc

theorem ctlInRange_raiseHalt (h : s.CtlInRange) (cause : BitVec 2) : (s.raiseHalt cause).CtlInRange :=
  { h with inFrame := pixInFrame_outsideTx (by simp) }

theorem ctlInRange_transmitDone (h : s.CtlInRange) : s.transmitDone.CtlInRange :=
  { h with inFrame := pixInFrame_outsideTx (by simp) }

/-- A tick blocked at the bound fails; below it the count stays within the bound (R145, R146). -/
theorem ctlInRange_blocked (h : s.CtlInRange) : s.blocked.CtlInRange := by
  rcases blocked_cases s with ⟨-, e⟩ | ⟨hlt, e⟩ <;> rw [e]
  · exact ctlInRange_raiseHalt h _
  · exact { h with blk := show (s.blk + 1).toNat ≤ s.cfg.blockBound by bv_omega }

theorem ctlInRange_timerTick (hwf : s.cfg.wf = true) (hc : s.cst = cstTx) (h : s.CtlInRange) :
    (s.timerTick s.frameFeed).CtlInRange := by
  obtain ⟨hmin, hmax⟩ := Config.wf_pixels hwf
  have hin : s.txs ≠ txsStart → s.pix.toNat < s.cfg.npix := h.inFrame hc
  have hbits := h.bitcnt
  rcases timerTick_cases s s.frameFeed with ⟨-, -, e⟩ | ⟨-, -, e⟩ | ⟨hx, -, e⟩ | ⟨-, -, e⟩ | ⟨-, -, e⟩ |
    ⟨hx, -, hb, e⟩ | ⟨-, -, -, hp, e⟩ | ⟨hx, -, -, -, e⟩ | ⟨-, -, e⟩ | ⟨-, -, e⟩ <;> rw [e]
  case inl => exact ctlInRange_raiseHalt h _
  case inr.inr.inr.inl | inr.inr.inr.inr.inl | inr.inr.inr.inr.inr.inr.inr.inr.inr => exact h
  case inr.inr.inr.inr.inr.inr.inr.inr.inl => exact ctlInRange_transmitDone h
  · exact { h with bitcnt := le_rfl, pix := Nat.zero_le _, inFrame := fun _ _ => hmin }
  · exact { h with inFrame := fun _ _ => hin (by simp [hx]) }
  · exact { h with
      bitcnt := show (s.bitcnt - 1).toNat ≤ 24 by bv_omega
      inFrame := fun _ _ => hin (by simp [hx]) }
  · rw [frameFeed_n] at hp
    have hnext : (s.pix + 1).toNat = s.pix.toNat + 1 := by bv_omega
    exact { h with
      bitcnt := le_rfl
      pix := show (s.pix + 1).toNat ≤ 11 by omega
      inFrame := fun _ _ => hnext.trans_lt hp }
  · exact { h with inFrame := fun _ _ => hin (by simp [hx]) }

theorem ctlInRange_smTick (hwf : s.cfg.wf = true) (hc : s.cst = cstTx) (h : s.CtlInRange) :
    (s.smTick s.frameFeed).CtlInRange := by
  obtain ⟨hmin, hmax⟩ := Config.wf_pixels hwf
  obtain ⟨htreset, -⟩ := Config.wf_interval hwf
  have hin : s.txs ≠ txsStart → s.pix.toNat < s.cfg.npix := h.inFrame hc
  rcases smTick_cases s s.frameFeed with ⟨-, -, e⟩ | ⟨-, -, e⟩ | ⟨-, -, hp, e⟩ | ⟨hx, -, -, e⟩ | ⟨-, -, e⟩ |
    ⟨hx, -, -, e⟩ | ⟨-, -, -, e⟩ | ⟨-, -, -, e⟩ | ⟨-, -, e⟩ | ⟨-, hmore, e⟩ <;> rw [e]
  case inl => exact ctlInRange_raiseHalt h _
  case inr.inr.inr.inr.inl | inr.inr.inr.inr.inr.inr.inr.inl => exact ctlInRange_blocked h
  case inr.inr.inr.inr.inr.inr.inr.inr.inl => exact ctlInRange_transmitDone h
  · exact { h with blk := Nat.zero_le _, pix := Nat.zero_le _, inFrame := fun _ _ => hmin }
  · rw [frameFeed_n] at hp
    have hnext : (s.pix + 1).toNat = s.pix.toNat + 1 := by bv_omega
    exact { h with
      blk := Nat.zero_le _
      pix := show (s.pix + 1).toNat ≤ 11 by omega
      inFrame := fun _ _ => hnext.trans_lt hp }
  · exact { h with blk := Nat.zero_le _, inFrame := fun _ _ => hin (by simp [hx]) }
  · exact { h with lcnt := htreset, inFrame := fun _ _ => hin (by simp [hx]) }
  · exact { h with blk := Nat.zero_le _ }
  · exact { h with lcnt := show (s.lcnt + 1).toNat < s.cfg.treset by bv_omega }

theorem ctlInRange_ctlPart (hwf : s.cfg.wf = true) (h : s.CtlInRange) : s.ctlPart.CtlInRange := by
  have hftmr := h.ftmr
  rcases ctlPart_cases s with ⟨-, -, e⟩ | ⟨-, -, e⟩ | ⟨-, e⟩ | ⟨-, e⟩ | ⟨hc, e⟩ | ⟨-, e⟩ | ⟨-, -, e⟩ | ⟨-, hmore, e⟩ |
    ⟨-, e⟩ <;> rw [e]
  case inr.inl => exact ctlInRange_raiseHalt h _
  case inr.inr.inr.inl => exact { h with inFrame := fun _ hx => absurd rfl hx }
  case inr.inr.inr.inr.inl =>
    unfold State.txTick
    split
    · exact ctlInRange_timerTick hwf hc h
    · exact ctlInRange_smTick hwf hc h
  case inr.inr.inr.inr.inr.inl =>
    exact { h with ftmr := (toNat_frameTicks hwf).le, inFrame := pixInFrame_outsideTx (by simp) }
  case inr.inr.inr.inr.inr.inr.inr.inl =>
    exact { h with ftmr := show (s.ftmr - 1).toNat ≤ s.cfg.frameTicks by bv_omega }
  case inr.inr.inr.inr.inr.inr.inr.inr => exact h
  all_goals exact { h with inFrame := pixInFrame_outsideTx (by simp) }

/-- A tick leaves the controller's counters as the controller's part does. -/
theorem ctlInRange_tickState (hwf : s.cfg.wf = true) (h : s.CtlInRange) : s.tickState.CtlInRange := by
  have hctl := ctlInRange_ctlPart hwf h
  unfold State.tickState
  split <;> exact { hctl with }

end Ranges

/-! ### The Timer-Paced waits over one tick (spec/41_bit_serializer.md R142) -/

section Paced

variable {s t : State}

/-- A tick that records no interval's start makes the elapsed time one longer, or wraps it to 0. -/
theorem elapsed_endTick_le (h : t.tstart = s.tstart) : (s.endTick t).elapsed.toNat ≤ s.elapsed.toNat + 1 := by
  simp only [State.elapsed, State.endTick_tcnt, State.endTick_tstart, h]
  bv_omega

/-- An interval begins in the tick after the one that records its start. -/
theorem elapsed_endTick_start (h : t.tstart = s.tcnt + 1) : (s.endTick t).elapsed.toNat = 0 := by
  simp [State.elapsed, h]

theorem pacedInTime_outside (h : s.cst = cstTx → s.txs = txsStart) : s.PacedInTime := by
  intro _ hc
  simp [h hc]

theorem pacedInTime_high (hx : s.txs = txsTHigh) (h : s.elapsed.toNat < s.hiTimer) : s.PacedInTime :=
  fun _ _ => ⟨fun _ => h, by simp [hx], by simp [hx]⟩

theorem pacedInTime_low (hx : s.txs = txsTLow) (h : s.elapsed.toNat < s.cfg.total) : s.PacedInTime :=
  fun _ _ => ⟨by simp [hx], fun _ => h, by simp [hx]⟩

theorem pacedInTime_latch (hx : s.txs = txsTLatch) (h : s.elapsed.toNat < s.cfg.treset) : s.PacedInTime :=
  fun _ _ => ⟨by simp [hx], by simp [hx], fun _ => h⟩

/-- A symbol begins in its high time, which has a tick (R132, R133). -/
theorem pacedInTime_endTick_symbol (hwf : t.cfg.wf = true) (hx : t.txs = txsTHigh) (ht : t.tstart = s.tcnt + 1) :
    (s.endTick t).PacedInTime := by
  refine pacedInTime_high hx ?_
  rw [elapsed_endTick_start ht]
  exact (Config.hiTicks_bounds hwf _).1

/-- A Timer-Paced tick in `TX` goes on with the interval, not yet at its end, or begins the next one. -/
theorem pacedInTime_timerTick (f : Feed) (hwf : s.cfg.wf = true) (hs : s.cfg.strategy = .timer) (hc : s.cst = cstTx)
    (h : s.PacedInTime) : (s.endTick (s.timerTick f)).PacedInTime := by
  obtain ⟨hhigh, -, -⟩ := h hs hc
  have hhi : s.hiTimer < s.cfg.total := (Config.hiTicks_bounds hwf (s.shr.getLsbD 23)).2
  rcases timerTick_cases s f with ⟨-, -, e⟩ | ⟨-, -, e⟩ | ⟨hx, -, e⟩ | ⟨hx, hmore, e⟩ | ⟨hx, hmore, e⟩ |
    ⟨-, -, -, e⟩ | ⟨-, -, -, -, e⟩ | ⟨-, -, -, -, e⟩ | ⟨-, -, e⟩ | ⟨hx, hmore, e⟩ <;> rw [e]
  case inl | inr.inr.inr.inr.inr.inr.inr.inr.inl => exact pacedInTime_outside (by simp)
  case inr.inl | inr.inr.inr.inr.inr.inl | inr.inr.inr.inr.inr.inr.inl => exact pacedInTime_endTick_symbol hwf rfl rfl
  · have hin : s.elapsed.toNat + 1 < s.cfg.total := (Nat.succ_le_of_lt (hhigh hx)).trans_lt hhi
    exact pacedInTime_low rfl ((elapsed_endTick_le rfl).trans_lt hin)
  · exact pacedInTime_high hx ((elapsed_endTick_le rfl).trans_lt hmore)
  · exact pacedInTime_low hx ((elapsed_endTick_le rfl).trans_lt hmore)
  · exact pacedInTime_latch rfl ((elapsed_endTick_start rfl).trans_lt (Config.wf_interval hwf).1)
  · exact pacedInTime_latch hx ((elapsed_endTick_le rfl).trans_lt hmore)

/-- The controller enters `TX` at the transmit's start (R183). -/
theorem ctlPart_enters_tx (hc : s.cst ≠ cstTx) (h : s.ctlPart.cst = cstTx) : s.ctlPart.txs = txsStart := by
  rcases ctlPart_cases s with ⟨-, -, e⟩ | ⟨-, -, e⟩ | ⟨-, e⟩ | ⟨-, e⟩ | ⟨htx, -⟩ | ⟨-, e⟩ | ⟨-, -, e⟩ | ⟨-, -, e⟩ |
    ⟨-, e⟩
  case inr.inr.inr.inl => rw [e, State.goTo_txs]
  case inr.inr.inr.inr.inl => exact absurd htx hc
  all_goals simp [e, hc] at h

theorem pacedInTime_tickState (hwf : s.cfg.wf = true) (h : s.PacedInTime) : s.tickState.PacedInTime := by
  by_cases hc : s.cst = cstTx
  · cases hs : s.cfg.strategy with
    | timer =>
      rw [tickState_timer hs, ctlPart_tx hc, State.txTick, hs]
      exact pacedInTime_timerTick s.frameFeed hwf hs hc h
    | sm => exact fun hs' => by simp [hs] at hs'
  · refine pacedInTime_outside fun ht => ?_
    rw [tickState_cst] at ht
    rw [tickState_txs, ctlPart_enters_tx hc ht]

end Paced

/-- Settles O60: reset zeroes the counters and leaves `TX`; a tick keeps each agent's ranges, and the interval being
timed. -/
theorem countersKept : Obligations.CountersKept := by
  intro s t h
  rcases step_cases h with ⟨hwf, -, rfl⟩ | ⟨⟨hwf, -⟩, -, rfl⟩
  · exact ⟨fun _ => ⟨countersInRange_resetWith s.cfg (s.tcnt + 1) (s.pinsAt 1) hwf,
      pixInFrame_resetWith s.cfg (s.tcnt + 1) (s.pinsAt 1)⟩,
      fun _ => pacedInTime_resetWith s.cfg (s.tcnt + 1) (s.pinsAt 1)⟩
  · refine ⟨fun hrange => ?_, pacedInTime_tickState hwf⟩
    obtain ⟨hctl, heng⟩ := (inRange_iff s).mp hrange
    exact (inRange_iff s.tickState).mpr ⟨ctlInRange_tickState hwf hctl, eng_tickState_inRange hwf heng⟩

/-! ### The first ticks after reset (spec/70_reset_and_hazards.md R232) -/

section FirstTicks

variable {s : State}

/-- The state after a first tick whose check of the initialization succeeds. -/
def State.readEntry (s : State) : State := (s.after [s.dout]).goTo cstRead

@[simp] theorem State.readEntry_cfg (s : State) : s.readEntry.cfg = s.cfg := rfl
@[simp] theorem State.readEntry_phase (s : State) : s.readEntry.phase = s.phase := rfl
@[simp] theorem State.readEntry_dout (s : State) : s.readEntry.dout = s.dout := rfl
@[simp] theorem State.readEntry_wire (s : State) : s.readEntry.wire = s.wire ++ [s.dout] := rfl
@[simp] theorem State.txEntry_col (s : State) : s.txEntry.col = sequencer s.cfg s.phase := rfl
@[simp] theorem State.txEntry_dout (s : State) : s.txEntry.dout = s.dout := rfl
@[simp] theorem State.txEntry_wire (s : State) : s.txEntry.wire = s.wire ++ [s.dout, s.dout] := rfl

theorem readEntry_run (h : s.Idles) (hc : s.cst = cstInit) (hi : s.pins.initOk = true) (hr : s.pins.rst = false) :
    Host.Core.run core 1 s = .next s.readEntry :=
  run_one_idles h hr (by rw [ctlPart_init_ok hc hi]; rfl)

theorem idles_readEntry (h : s.Idles) : s.readEntry.Idles := by
  obtain ⟨hwf, -, hcodes⟩ := h.ready
  exact ⟨⟨hwf, by simp [State.readEntry], hcodes⟩, h.quiet, by simp [State.readEntry]⟩

theorem readEntry_noReset {n : Nat} (hr : s.NoResetFor (1 + n)) : s.readEntry.NoResetFor n :=
  noReset_after (l := [s.dout]) hr

theorem readEntry_channel {n : Nat} (h : s.ChannelFor (1 + n)) : s.readEntry.ChannelFor n :=
  channel_after (l := [s.dout]) h

theorem readEntry_engineQuiet (h : s.EngineQuiet) : s.readEntry.EngineQuiet := h

theorem readEntry_codesLegal (h : s.CodesLegal) : s.readEntry.CodesLegal := by
  obtain ⟨-, hest, hcause⟩ := h
  exact ⟨by simp [State.readEntry], hest, hcause⟩

/-- Step 1 of the loop. -/
theorem seqEntry_run (h : s.Idles) (hc : s.cst = cstRead) (hr : s.pins.rst = false) :
    Host.Core.run core 1 s = .next s.seqEntry :=
  run_one_idles h hr (by rw [ctlPart_read hc]; rfl)

theorem txEntry_engineQuiet (h : s.EngineQuiet) : s.txEntry.EngineQuiet := h

theorem txEntry_codesLegal (h : s.CodesLegal) : s.txEntry.CodesLegal := by
  obtain ⟨-, hest, hcause⟩ := h
  exact ⟨by simp [State.txEntry], hest, hcause⟩

/-- A step from a legal state, the first of several. -/
theorem run_tick_succ (hwf : s.cfg.wf = true) (h : s.CodesLegal) (hr : s.pins.rst = false) (n : Nat) :
    Host.Core.run core (n + 1) s = Host.Core.run core n s.tickState := by
  obtain ⟨hcst, hest, hcause⟩ := h
  exact run_succ n (step_tick ⟨hwf, hcst, hcause, fun _ => hest⟩ hr)

/-- In `TIMER` a transmit's first tick raises the line (R138). -/
theorem timer_start_raises (hwf : s.cfg.wf = true) (hcodes : s.CodesLegal) (hs : s.cfg.strategy = .timer)
    (hc : s.cst = cstTx) (hx : s.txs = txsStart) (hr : s.pins.rst = false) (hp : s.pins.chanAvail = true) :
    ∃ t, Host.Core.run core 1 s = .next t ∧ t.dout = true ∧ t.wire = s.wire ++ [s.dout] := by
  have hpart : s.ctlPart = s.timerStart s.frameFeed := by
    rw [ctlPart_tx hc, State.txTick, hs]
    exact if_pos hx
  refine ⟨s.tickState, run_tick_succ hwf hcodes hr 0, ?_, tickState_wire s⟩
  rw [tickState_timer hs, hpart, timerStart_available hp, State.endTick_dout]

/-! In `SM` the line rises three ticks into the transmit, whatever its words: the start, the first push, the pop. -/

/-- A tick of `SM` with the engine quiet holds the line. -/
theorem dout_tickState_of_quiet (hs : s.cfg.strategy = .sm) (h : s.EngineQuiet) : s.tickState.dout = s.dout :=
  congrArg SmEng.dout ((eng_tickState hs).trans (congrArg State.eng (engineTick_of_quiet h)))

/-- A State-Machine transmit's start, with the channel available, leads to its first push (R144). -/
theorem sm_start_tick (hs : s.cfg.strategy = .sm) (hc : s.cst = cstTx) (hx : s.txs = txsStart)
    (hp : s.pins.chanAvail = true) : s.tickState.cst = cstTx ∧ s.tickState.txs = txsSPush := by
  have hpart : s.ctlPart = s.smStart := by
    rw [ctlPart_tx hc, State.txTick, hs]
    exact if_pos hx
  rw [tickState_cst, tickState_txs, hpart, smStart_available hp]
  exact ⟨hc, rfl⟩

/-- A push with the engine quiet leaves its word alone in the queue, the engine still idle (R145, R74). -/
theorem sm_push_tick (hwf : s.cfg.wf = true) (hs : s.cfg.strategy = .sm) (hc : s.cst = cstTx) (hx : s.txs = txsSPush)
    (hq : s.EngineQuiet) : s.tickState.est = estIdle ∧ ∃ w, s.tickState.fifo = [w] := by
  have ⟨hfifo, hest⟩ := hq
  have hroom : s.fifo.length < s.cfg.qdepth := by
    rw [hfifo]
    exact (Config.wf_queue hwf hs).1
  have heng : s.tickState.eng = s.eng := (eng_tickState hs).trans (congrArg State.eng (engineTick_of_quiet hq))
  refine ⟨(congrArg SmEng.est heng).trans hest, wordOf s.cfg.chorder s.col s.cfg.scale, ?_⟩
  rw [tickState_fifo hs, engineTick_of_quiet hq, hfifo, State.pushedWords, if_pos ⟨hc, hx, hroom⟩, List.nil_append]

/-- An enabled idle engine with a word waiting raises the line (R148). -/
theorem idle_tick_raises {w : Word24} {rest : List Word24} (hs : s.cfg.strategy = .sm) (hp : s.pins.chanAvail = true)
    (he : s.est = estIdle) (hf : s.fifo = w :: rest) : s.tickState.dout = true := by
  have hengine : s.engineTick = s.engineLoad w rest := by
    rw [State.engineTick, enabled_available hp, if_pos he, engineIdle_pop hf]
  exact congrArg SmEng.dout ((eng_tickState hs).trans (congrArg State.eng hengine))

theorem sm_start_raises (hwf : s.cfg.wf = true) (hcodes : s.CodesLegal) (hs : s.cfg.strategy = .sm) (hc : s.cst = cstTx)
    (hx : s.txs = txsStart) (hq : s.EngineQuiet) (hr : s.NoResetFor 3) (hp : s.ChannelFor 3) :
    ∃ t, Host.Core.run core 3 s = .next t ∧ t.dout = true ∧ t.wire = s.wire ++ List.replicate 3 s.dout := by
  obtain ⟨hr0, hr⟩ := noReset_succ hr
  obtain ⟨hr1, hr⟩ := noReset_succ hr
  obtain ⟨hr2, -⟩ := noReset_succ hr
  obtain ⟨hp0, hp⟩ := channel_succ hp
  obtain ⟨-, hp⟩ := channel_succ hp
  obtain ⟨hp2, -⟩ := channel_succ hp
  have hwf1 : s.tickState.cfg.wf = true := by rwa [tickState_cfg]
  have hs1 : s.tickState.cfg.strategy = .sm := by rwa [tickState_cfg]
  have hcodes1 : s.tickState.CodesLegal := codesLegal_tickState hcodes
  have hq1 : s.tickState.EngineQuiet := engineQuiet_tickState hs hq (by simp [State.pushedWords, hx])
  obtain ⟨hc1, hx1⟩ := sm_start_tick hs hc hx hp0
  have hwf2 : s.tickState.tickState.cfg.wf = true := by rwa [tickState_cfg]
  have hs2 : s.tickState.tickState.cfg.strategy = .sm := by rwa [tickState_cfg]
  obtain ⟨he2, w, hf2⟩ := sm_push_tick hwf1 hs1 hc1 hx1 hq1
  refine ⟨s.tickState.tickState.tickState, ?_, idle_tick_raises hs2 hp2 he2 hf2, ?_⟩
  · rw [run_tick_succ hwf hcodes hr0, run_tick_succ hwf1 hcodes1 hr1,
      run_tick_succ hwf2 (codesLegal_tickState hcodes1) hr2, run_zero]
  · simp [dout_tickState_of_quiet hs1 hq1, dout_tickState_of_quiet hs hq]

end FirstTicks

/-- Settles O52: the initialization and steps 1 and 2 of the loop lead to the transmit's start in three ticks; from
there the line rises by the strategy. -/
theorem firstTicks : Obligations.FirstTicks := by
  intro cfg tcnt pins script s hs hwf hi hr hp
  have hidles : s.Idles := hs ▸ idles_reset hwf tcnt pins script
  obtain ⟨rfl, hcst, hpins, hphase, hdout, hwire⟩ : s.cfg = cfg ∧ s.cst = cstInit ∧ s.pins = pins ∧
      s.phase = cfg.phaseInit ∧ s.dout = false ∧ s.wire = [] := by rw [hs]; exact ⟨rfl, rfl, rfl, rfl, rfl, rfl⟩
  have hcodes : s.CodesLegal := by rw [hs]; exact codesLegal_resetWith s.cfg tcnt pins
  have hquiet : s.EngineQuiet := by rw [hs]; exact ⟨rfl, rfl⟩
  clear hs
  have hread : Host.Core.run core 1 s = .next s.readEntry :=
    readEntry_run hidles hcst (by rwa [hpins]) (noReset_now hr (by omega))
  have hidles1 := idles_readEntry hidles
  have hr1 := readEntry_noReset (n := 5) hr
  have hseq := (run_add 1 1 hread).trans (seqEntry_run hidles1 rfl (noReset_now hr1 (by omega)))
  have htx := (run_add 1 2 hread).trans (txEntry_run hidles1 rfl (noReset_weaken hr1 (by omega)))
  have hr3 := txEntry_noReset (n := 3) hr1
  have hp3 := txEntry_channel (n := 3) (readEntry_channel (n := 5) hp)
  have hcodes3 : s.readEntry.txEntry.CodesLegal := txEntry_codesLegal (readEntry_codesLegal hcodes)
  have hquiet3 : s.readEntry.txEntry.EngineQuiet := txEntry_engineQuiet (readEntry_engineQuiet hquiet)
  have hcfg3 : s.readEntry.txEntry.cfg = s.cfg := by simp
  have hdout3 : s.readEntry.txEntry.dout = false := by simpa using hdout
  have hwire3 : s.readEntry.txEntry.wire = [false, false, false] := by simp [hdout, hwire]
  refine ⟨⟨_, hread, rfl⟩, ⟨_, hseq, rfl, (State.readEntry_phase s).trans hphase⟩,
    ⟨_, htx, rfl, rfl, by simp [hphase]⟩, fun hs => ?_, fun hs => ?_⟩
  · obtain ⟨t, hrun, hhigh, hw⟩ := timer_start_raises (by rwa [hcfg3]) hcodes3 (by rwa [hcfg3]) rfl rfl
      (noReset_now hr3 (by omega)) (channel_now hp3 (by omega))
    exact ⟨t, (run_add 3 1 htx).trans hrun, hhigh, by rw [hw, hwire3, hdout3]; rfl⟩
  · obtain ⟨t, hrun, hhigh, hw⟩ :=
      sm_start_raises (by rwa [hcfg3]) hcodes3 (by rwa [hcfg3]) rfl rfl hquiet3 hr3 hp3
    exact ⟨t, (run_add 3 3 htx).trans hrun, hhigh, by rw [hw, hwire3, hdout3]; rfl⟩

/-- Settles O2: a tick with `rst = 1` is `resetTick`. -/
theorem resetDominates : Obligations.ResetDominates := fun s hwf hr =>
  ⟨s.resetTick, step_reset hwf hr, State.resetTick_phase s, State.resetTick_cst s, State.resetTick_txs s,
    State.resetTick_dout s, State.resetTick_crit s, State.resetTick_haltCause s, State.resetTick_fifo s,
    State.resetTick_est s, State.resetTick_tcnt s⟩

end Sys2Proof.Machine
